-- ==== Sys2Proof/Word.lean ====
section
/-! DEFINITION. The word types of the core (00_scope.md R1, R3): bytes of the streams, the 32-bit words of every
register, and the 64-bit counters `POS` and `CLEN`. Everything the core computes is unsigned. -/

namespace Sys2Proof

/-- A byte of a stream: `IN`, `OUT`, `SCRATCH` and the cipher move bytes of 8 bits (R1). -/
abbrev Byte := BitVec 8

/-- A 32-bit word: the PRNG words, keys, seeds, checksums, masks and sizes (R1). -/
abbrev Word := BitVec 32

/-- A 64-bit counter: `POS_W` = `CLEN_W` = `DSIZE_OPERAND_W` = 64 (R2). -/
abbrev DWord := BitVec 64

end Sys2Proof
end

