-- ==== Sys2Proof/Config.lean ====
section
/-! DEFINITION. What is fixed for the whole machine: the named parameters of 00_scope.md R2 that are constants, the
power-on value the model names for the PRNG words (assumption log 1), and the free values: words nothing constrains,
which stand for the "any value" of 93_implementation_defined.md I1 (assumption log 2). -/

namespace Sys2Proof

/-- Free words. The n-th free word of a run: it has no body, so nothing proved of the model can depend on what it is.
Used for `W[0..15]` after `CORE_RESET` or a power-on reset during a run, and for what `PRNG_W<k>` reads as while
`PRNG_VALID` = 0 (R18, R24, R27; I1). DESIGN CHOICE in form, safe but for claims that compare two runs (log 2). -/
opaque Config.freeWord : Nat → Word

/-- `REG_SPACE`, the size of the host register window in bytes (R2, R26). -/
def Config.regSpace : Nat := 4096

/-- `CK_PREINIT`, the checksum accumulator before its seeding draw (R2, R17, R69). -/
def Config.ckPreinit : Word := 0x00000000#32

/-- The value `State.reset` gives each PRNG word. R24 leaves it unspecified: DESIGN CHOICE, unsafe (log 1). No draw
reads it (R113), and a host read of it returns a free word instead, so no behaviour of the model shows it. -/
def Config.powerOnWord : Word := 0x00000000#32

/-- `SCRATCH_CAP` in `State.reset`: R2 leaves it open with the default "unbounded", written `none` here. -/
def Config.scratchCapDefault : Option Nat := none

end Sys2Proof
end

