-- ==== Sys2Proof/Syntax.lean ====
section
/-! DEFINITION. The syntax of the core: its commands (30_encoding.md R43, one constructor per row of
spec/opcode_table.json), the registers of its host window (20_memory.md R27), what may reach it from outside (R25,
R26, R113), and the statements of the spec's host-program notation (R53, R54). -/

namespace Sys2Proof

/-- The twenty commands of the opcode map (R43). No command word carries an operand: operands are in `ARG0` and `ARG1`
(R41, R46). -/
inductive Instr where
  | nop
  | prngSeed
  | prngNext
  | keyChecksum
  | subOpen
  | subRead
  | ciphInit
  | ciphDec
  | ciphEnc
  | rdOpen
  | rdHasnext
  | rdEntry
  | rdPull
  | rdPut
  | rdFinish
  | wrOpen
  | wrBegin
  | wrPush
  | wrEnd
  | coreReset
deriving DecidableEq, Repr

/-- The named registers of the host window (R27). `prngW k` is `PRNG_W<k>`. -/
inductive Reg where
  | cmd
  | arg0
  | arg1
  | config
  | res0
  | res1
  | status
  | errSticky
  | prngIdx
  | cksum
  | posLo
  | posHi
  | subN
  | subCnt
  | eCsize
  | eDsize
  | eChk
  | copied
  | mask1
  | mask2
  | clenLo
  | clenHi
  | hdrChk
  | hdrSeed
  | keyR
  | seedR
  | scratchLenLo
  | scratchLenHi
  | prngW (k : Fin 16)
deriving DecidableEq, Repr

/-- What reaches the core from outside, one event at a time. The host's only two operations are `MemRead` and
`MemWrite` (R26); their offset and width in bytes are kept as given, so that the accesses R29 leaves without a step can
be written down too. `powerOnReset` is the power-on reset of R113, which is no host operation (log 7). -/
inductive HostEvent where
  | memRead (addr nbytes : Nat)
  | memWrite (addr nbytes : Nat) (v : Word)
  | powerOnReset
deriving DecidableEq, Repr

/-- A statement of a host program in the spec's notation: `wr`, `rd` and a bare mnemonic (R53), then the four
pseudo-instructions of R54. Immediates are numbers as written; `Stmt.wf` bounds them. -/
inductive Stmt where
  | wr (r : Reg) (imm : Nat)
  | rd (r : Reg)
  | cmd (i : Instr)
  | cmdArg (i : Instr) (a : Nat)
  | wrOpenArgs (key seed : Nat)
  | wrEndSize (n : Nat)
  | config (a : Nat)
deriving DecidableEq, Repr

end Sys2Proof
end

