-- ==== Sys2Proof/WellFormed.lean ====
section
/-! DEFINITION. Which terms of the syntax the spec admits. A command has no operand fields, so each is well formed; a
host access must be a 32-bit access at an aligned offset inside the window (20_memory.md R29); a statement's immediates
must be in range and the one-operand pseudo-instruction must name a one-operand command (30_encoding.md R53, R54). -/

namespace Sys2Proof

/-- Every command is one word with no operand field (R41, R55), so nothing can be out of range. -/
def Instr.wf (_ : Instr) : Bool := true

/-- The commands whose only operand is `ARG0`, in whole or in part (R43): those R54's `<MNEMONIC> a` stands for. -/
def Instr.oneOperand : Instr → Bool
  | .prngSeed => true
  | .keyChecksum => true
  | .subOpen => true
  | .ciphInit => true
  | .ciphDec => true
  | .ciphEnc => true
  | .rdOpen => true
  | .rdPut => true
  | .wrPush => true
  | .nop => false
  | .prngNext => false
  | .subRead => false
  | .rdHasnext => false
  | .rdEntry => false
  | .rdPull => false
  | .rdFinish => false
  | .wrOpen => false
  | .wrBegin => false
  | .wrEnd => false
  | .coreReset => false

/-- An access the interface has: 4 bytes wide, at a multiple of 4, inside `REG_SPACE` (R26, R29). -/
def accessWf (addr nbytes : Nat) : Bool :=
  nbytes == 4 && addr % 4 == 0 && decide (addr < Config.regSpace)

/-- A well-formed event: a host access the interface has, or a power-on reset. -/
def HostEvent.wf : HostEvent → Bool
  | .memRead addr nbytes => accessWf addr nbytes
  | .memWrite addr nbytes _ => accessWf addr nbytes
  | .powerOnReset => true

/-- A well-formed statement: `<imm32>` below 2^32, `WR_END n` with n below 2^64, and a one-operand command where R54
asks for one. -/
def Stmt.wf : Stmt → Bool
  | .wr _ imm => decide (imm < 2 ^ 32)
  | .rd _ => true
  | .cmd _ => true
  | .cmdArg i a => i.oneOperand && decide (a < 2 ^ 32)
  | .wrOpenArgs key seed => decide (key < 2 ^ 32) && decide (seed < 2 ^ 32)
  | .wrEndSize n => decide (n < 2 ^ 64)
  | .config a => decide (a < 2 ^ 32)

end Sys2Proof
end

