-- ==== Sys2Proof/Decode.lean ====
section
/-! DEFINITION. The command word (30_encoding.md R41 to R45, R55): decoding, total on every 32-bit word and rejecting by
name, and after it the encoder, both written from the opcode map of R43. -/

namespace Sys2Proof

/-- Why a word is no command. Both raise `ILLEGAL_COMMAND` (R42); their order is that of R104 items 1 and 2. -/
inductive DecodeReject where
  /-- a bit of `RSV` = `w[31:8]` is set (R44) -/
  | reservedNonzero
  /-- `OPC` is not in the opcode map (R45) -/
  | unassignedOpcode (opc : Byte)
deriving DecidableEq, Repr

/-- `OPC` = `w[7:0]` (R41). -/
def opcField (w : Word) : Byte := w.extractLsb' 0 8

/-- `RSV` = `w[31:8]` (R41). -/
def rsvField (w : Word) : BitVec 24 := w.extractLsb' 8 24

/-- The opcode map (R43), read from an opcode: all eight bits are matched. -/
def opcodeMap (opc : Byte) : Option Instr :=
  match opc.toNat with
  | 0x00 => some .nop
  | 0x01 => some .prngSeed
  | 0x02 => some .prngNext
  | 0x03 => some .keyChecksum
  | 0x10 => some .subOpen
  | 0x11 => some .subRead
  | 0x20 => some .ciphInit
  | 0x21 => some .ciphDec
  | 0x22 => some .ciphEnc
  | 0x30 => some .rdOpen
  | 0x31 => some .rdHasnext
  | 0x32 => some .rdEntry
  | 0x33 => some .rdPull
  | 0x34 => some .rdPut
  | 0x35 => some .rdFinish
  | 0x40 => some .wrOpen
  | 0x41 => some .wrBegin
  | 0x42 => some .wrPush
  | 0x43 => some .wrEnd
  | 0xFF => some .coreReset
  | _ => none

/-- The decoding part of dispatch (R42): `RSV` first, then `OPC`. -/
def decode (w : Word) : Except DecodeReject Instr :=
  if rsvField w ≠ 0 then .error .reservedNonzero
  else
    match opcodeMap (opcField w) with
    | some i => .ok i
    | none => .error (.unassignedOpcode (opcField w))

/-- The opcode of a command, from the same map (R43). -/
def opcodeOf : Instr → Byte
  | .nop => 0x00#8
  | .prngSeed => 0x01#8
  | .prngNext => 0x02#8
  | .keyChecksum => 0x03#8
  | .subOpen => 0x10#8
  | .subRead => 0x11#8
  | .ciphInit => 0x20#8
  | .ciphDec => 0x21#8
  | .ciphEnc => 0x22#8
  | .rdOpen => 0x30#8
  | .rdHasnext => 0x31#8
  | .rdEntry => 0x32#8
  | .rdPull => 0x33#8
  | .rdPut => 0x34#8
  | .rdFinish => 0x35#8
  | .wrOpen => 0x40#8
  | .wrBegin => 0x41#8
  | .wrPush => 0x42#8
  | .wrEnd => 0x43#8
  | .coreReset => 0xFF#8

/-- The command word of a command: `RSV` = 0 above its opcode (R41). -/
def encode (i : Instr) : Word := (0#24 ++ opcodeOf i : BitVec 32)

/-- The command the decoder reads from a table word. A command is always one 32-bit word (R55), so a number that needs
more bits than that is no command word; bits at and above `nbits` are 0. -/
def decodeTableWord (nbits w : Nat) : Option Instr :=
  let bits := w % 2 ^ nbits
  if bits < 2 ^ 32 then
    match decode (BitVec.ofNat 32 bits) with
    | .ok i => some i
    | .error _ => none
  else none

end Sys2Proof
end

