-- ==== Sys2Proof/Machine/State.lean ====
section
/-! DEFINITION. The state of the core (10_state.md R9 to R24), as plain data, with the environment's byte ports (R23),
what the model itself needs (the events still to come, the values the host has read, the count of free words taken), the
reasons a step can stop, and `State.reset`. -/

namespace Sys2Proof.Machine

/-- The values `SEQ` holds (R13); `Seq.code` gives their 4-bit codes. The codes 0x5 to 0x7 and 0xB to 0xE are never
held, so they have no constructor. `rFault` is the spec's `FAULT`. -/
inductive Seq where
  /-- `IDLE`: no container open -/
  | idle
  /-- `R_HDR`: global header read and accepted, no entry read yet -/
  | rHdr
  /-- `R_ENTRIES`: reader between entries -/
  | rEntries
  /-- `R_IN_ENTRY`: an entry's payload is being read -/
  | rInEntry
  /-- `R_EXHAUSTED`: `RD_HASNEXT` found no unread input -/
  | rExhausted
  /-- `W_PENDING`: writer opened, global header not yet written -/
  | wPending
  /-- `W_ENTRIES`: header written, between entries -/
  | wEntries
  /-- `W_IN_ENTRY`: an entry is being written -/
  | wInEntry
  /-- `FAULT`: a stream-level error ended the container -/
  | fault
deriving DecidableEq, Repr

/-- The errors of the core (R99). `NONE` is the absence of an error: `STATUS.ERR` is an `Option Error`. -/
inductive Error where
  | keyChecksum
  | entryChecksum
  | sizeMismatch
  | sizeOverflow
  | unsupportedOperation
  | truncated
  | illegalCommand
  | unseeded
deriving DecidableEq, Repr

/-- The host interface registers (R10, R11, R15, R16) and `STATUS.ERR` (R14). `CONFIG` bits [31:4] and `ERR_STICKY`
bits 0 and [31:9] are hard-wired to zero by the operations that write and read them. -/
structure HostRegs where
  arg0 : Word
  arg1 : Word
  res0 : Word
  res1 : Word
  config : Word
  err : Option Error
  errSticky : Word
deriving DecidableEq, Repr

/-- The PRNG unit (R18). -/
structure Prng where
  w : Vector Word 16
  idx : BitVec 4
  valid : Bool
deriving DecidableEq, Repr

/-- The cipher unit (R17); `dir` is 0 for decrypt and 1 for encrypt. -/
structure Cipher where
  ck : Word
  ckSeeded : Bool
  pos : DWord
  dir : BitVec 1
deriving DecidableEq, Repr

/-- The sub-range unit (R19): `SUB_N` and `SUB_CNT`. -/
structure SubRange where
  n : Word
  cnt : Word
deriving DecidableEq, Repr

/-- The header registers (R20). -/
structure Header where
  hdrChk : Word
  hdrSeed : Word
  keyR : Word
  seedR : Word
  hdrDone : Bool
deriving DecidableEq, Repr

/-- The entry registers (R21). -/
structure Entry where
  csize : Word
  dsize : Word
  chk : Word
  copied : Word
  mask1 : Word
  mask2 : Word
  clen : DWord
  bufLatched : Bool
deriving DecidableEq, Repr

/-- The environment's ports (R23): the input bytes `INPUT` with the read position `IN_POS`, and the output bytes
`OUT`. -/
structure Ports where
  input : List Byte
  inPos : Nat
  out : List Byte
deriving DecidableEq, Repr

/-- The state. The first seven groups and `scratch` are the core's (R9); `ports` is the environment's (R23);
`scratchCap` is the parameter `SCRATCH_CAP` (R2), `none` for unbounded, which no step changes (log 4). The last three
fields are the model's own: `events` is what the host has yet to do (log 6), `hostReads` is every value `MemRead` has
returned, oldest first (log 8), `freeCount` is how many free words have been taken (log 2). -/
structure State where
  regs : HostRegs
  seq : Seq
  prng : Prng
  cipher : Cipher
  sub : SubRange
  hdr : Header
  entry : Entry
  scratch : List Byte
  ports : Ports
  scratchCap : Option Nat
  events : List HostEvent
  hostReads : List Word
  freeCount : Nat
deriving DecidableEq, Repr

/-- Why the machine has no step: the "stuck" cases of 93_implementation_defined.md. Each is safe: the model stops where
the spec gives no transition. -/
inductive Fault where
  /-- An append to `SCRATCH` that already holds `SCRATCH_CAP` bytes (R22, I2): raised by `RD_PUT` and `WR_PUSH`. Safe. -/
  | scratchFull
  /-- A cipher byte at `POS` = 2^64 - 1 (R73, I3): raised by `CIPH_DEC`, `CIPH_ENC`, `RD_PULL`, `WR_PUSH`. Safe. -/
  | posExhausted
  /-- `WR_PUSH` at `CLEN` = 2^64 - 1 (R21, D13, I3). Safe. -/
  | clenExhausted
  /-- A host access that is not 4 bytes wide (R29, I4). Safe. -/
  | accessWidth
  /-- A host access at an offset that is not a multiple of 4 (R29, I4). Safe. -/
  | accessMisaligned
  /-- A host access outside `REG_SPACE` (R29). Safe. -/
  | accessOutsideWindow
deriving DecidableEq, Repr

/-- Refusals. No command of this core is refused by a meaning. -/
inductive Refusal where
  /-- Raised only by an arm of `exec` whose command has no meaning yet; this model has no such arm. Safe. -/
  | notModelled (mnemonic : String)
deriving DecidableEq, Repr

/-- The outcome of a step of this machine. -/
abbrev Result := Host.Outcome State Fault Refusal

/-! Named updates, one per field; their field lemmas are in Laws/State.lean. -/

def State.setRegs (s : State) (x : HostRegs) : State := { s with regs := x }
def State.setSeq (s : State) (x : Seq) : State := { s with seq := x }
def State.setPrng (s : State) (x : Prng) : State := { s with prng := x }
def State.setCipher (s : State) (x : Cipher) : State := { s with cipher := x }
def State.setSub (s : State) (x : SubRange) : State := { s with sub := x }
def State.setHdr (s : State) (x : Header) : State := { s with hdr := x }
def State.setEntry (s : State) (x : Entry) : State := { s with entry := x }
def State.setScratch (s : State) (x : List Byte) : State := { s with scratch := x }
def State.setPorts (s : State) (x : Ports) : State := { s with ports := x }
def State.setEvents (s : State) (x : List HostEvent) : State := { s with events := x }
def State.setHostReads (s : State) (x : List Word) : State := { s with hostReads := x }
def State.setFreeCount (s : State) (x : Nat) : State := { s with freeCount := x }

/-- `STATUS.ERR <- e`. -/
def State.setErr (s : State) (e : Option Error) : State := s.setRegs { s.regs with err := e }

/-- `RES0 <- r0; RES1 <- r1`. -/
def State.setRes (s : State) (r0 r1 : Word) : State := s.setRegs { s.regs with res0 := r0, res1 := r1 }

/-! Reset values (R24). -/

/-- The cipher unit after reset (R17, R24). -/
def Cipher.reset : Cipher := { ck := Config.ckPreinit, ckSeeded := false, pos := 0, dir := 0 }

/-- The sub-range unit after reset: a budget of 0 (R19, R24). -/
def SubRange.reset : SubRange := { n := 0, cnt := 0 }

/-- The header registers after reset (R20, R24). -/
def Header.reset : Header := { hdrChk := 0, hdrSeed := 0, keyR := 0, seedR := 0, hdrDone := false }

/-- The entry registers after reset (R21, R24). -/
def Entry.reset : Entry :=
  { csize := 0, dsize := 0, chk := 0, copied := 0, mask1 := 0, mask2 := 0, clen := 0, bufLatched := false }

/-- The host registers after power-on reset (R24). -/
def HostRegs.powerOn : HostRegs :=
  { arg0 := 0, arg1 := 0, res0 := 0, res1 := 0, config := 0, err := none, errSticky := 0 }

/-- The machine right after power-on reset at the start of a run (R24, R113): `IN_POS` = 0 and `OUT` empty (R23). The
spec leaves `W[0..15]` unspecified: the value here is `Config.powerOnWord` (log 1). `INPUT` and `SCRATCH_CAP` are open
parameters (R2): empty and unbounded here, arbitrary in every other state (log 3, log 4). No event is waiting
(log 6). -/
def State.reset : State where
  regs := HostRegs.powerOn
  seq := .idle
  prng := { w := Vector.ofFn fun _ => Config.powerOnWord, idx := 0, valid := false }
  cipher := Cipher.reset
  sub := SubRange.reset
  hdr := Header.reset
  entry := Entry.reset
  scratch := []
  ports := { input := [], inPos := 0, out := [] }
  scratchCap := Config.scratchCapDefault
  events := []
  hostReads := []
  freeCount := 0

end Sys2Proof.Machine
end

