-- ==== Sys2Proof/Machine/Bits.lean ====
section
/-! DEFINITION. Bit fields, rotation and byte order (00_scope.md R3 to R7, 20_memory.md R33). -/

namespace Sys2Proof.Machine

/-- `zext_32` of a byte (R8, R47). -/
def zextByte (b : Byte) : Word := b.setWidth 32

/-- `low_byte(v)` = `v[7:0]` (R7). -/
def lowByte (v : Word) : Byte := v.extractLsb' 0 8

/-- `rotr32(x, n)` = `(x >> n) | (x << (32 - n))`, used for 1 <= n <= 7 (R6). -/
def rotr32 (x : Word) (n : Nat) : Word := (x >>> n) ||| (x <<< (32 - n))

/-- `BE32(b0, b1, b2, b3)`: the first byte is the most significant (R33). -/
def be32 (b0 b1 b2 b3 : Byte) : Word :=
  (zextByte b0 <<< 24) ||| (zextByte b1 <<< 16) ||| (zextByte b2 <<< 8) ||| zextByte b3

/-- `BYTES_BE32(v)`: `v[31:24], v[23:16], v[15:8], v[7:0]` in that order (R33). -/
def bytesBE32 (v : Word) : List Byte :=
  [v.extractLsb' 24 8, v.extractLsb' 16 8, v.extractLsb' 8 8, v.extractLsb' 0 8]

/-- Bits [31:0] of a 64-bit value (the `_LO` registers of R27). -/
def lo32 (v : DWord) : Word := v.extractLsb' 0 32

/-- Bits [63:32] of a 64-bit value (the `_HI` registers of R27). -/
def hi32 (v : DWord) : Word := v.extractLsb' 32 32

/-- The global header: `checksum:u32 seed:u32`, big-endian (R49, R50). -/
def globalHeaderBytes (checksum seed : Word) : List Byte := bytesBE32 checksum ++ bytesBE32 seed

/-- An entry header: the masked compressed size, the masked decompressed size and the checksum (R49, R51). -/
def entryHeaderBytes (csize dsize mask1 mask2 checksum : Word) : List Byte :=
  bytesBE32 (csize ^^^ mask1) ++ bytesBE32 (dsize ^^^ mask2) ++ bytesBE32 checksum

end Sys2Proof.Machine
end

