-- ==== Sys2Proof/Machine/Flags.lean ====
section
/-! DEFINITION. Status codes and flags: the codes of `SEQ` (10_state.md R13) and of the errors (60_exceptions.md R99),
the `STATUS` view (R14), the toggles of `CONFIG` (R15), and the legality of a command in a `SEQ` value (30_encoding.md
R48). -/

namespace Sys2Proof.Machine

/-- The 4-bit code of a `SEQ` value (R13). -/
def Seq.code : Seq → BitVec 4
  | .idle => 0x0#4
  | .rHdr => 0x1#4
  | .rEntries => 0x2#4
  | .rInEntry => 0x3#4
  | .rExhausted => 0x4#4
  | .wPending => 0x8#4
  | .wEntries => 0x9#4
  | .wInEntry => 0xA#4
  | .fault => 0xF#4

/-- The 8-bit code of an error (R99). -/
def Error.code : Error → Byte
  | .keyChecksum => 0x01#8
  | .entryChecksum => 0x02#8
  | .sizeMismatch => 0x03#8
  | .sizeOverflow => 0x04#8
  | .unsupportedOperation => 0x05#8
  | .truncated => 0x06#8
  | .illegalCommand => 0x07#8
  | .unseeded => 0x08#8

/-- What `STATUS.ERR` reads as: the error's code, or 0x00 for `NONE` (R14, R99). -/
def errCode : Option Error → Byte
  | none => 0x00#8
  | some e => e.code

/-- The bit of `ERR_STICKY` that records an error: bit `n` for code `n` (R16, R100). -/
def Error.stickyBit (e : Error) : Word := 1#32 <<< e.code.toNat

/-- The `STATUS` register: bits [31:17] zero, `BUF_LATCHED` 16, `HDR_DONE` 15, `DIR` 14, `CK_SEEDED` 13, `PRNG_VALID`
12, `SEQ` [11:8], `ERR` [7:0] (R14). -/
def statusWord (s : State) : Word :=
  (0#15 ++ BitVec.ofBool s.entry.bufLatched ++ BitVec.ofBool s.hdr.hdrDone ++ s.cipher.dir ++
    BitVec.ofBool s.cipher.ckSeeded ++ BitVec.ofBool s.prng.valid ++ s.seq.code ++ errCode s.regs.err : BitVec 32)

/-- The bits of `CONFIG` that exist, [3:0]; the others ignore writes and read as zero (R15, R28). -/
def configMask : Word := 0x0000000F#32

/-- The bits of `ERR_STICKY` that exist, [8:1]; the others read as zero (R16). -/
def stickyMask : Word := 0x000001FE#32

/-- `CONFIG[0]`: skip key-checksum enforcement (R15). -/
def skipKeyChk (config : Word) : Bool := config.getLsbD 0

/-- `CONFIG[1]`: skip entry-checksum enforcement (R15). -/
def skipEntryChk (config : Word) : Bool := config.getLsbD 1

/-- `CONFIG[2]`: skip length enforcement (R15). -/
def skipLenChk (config : Word) : Bool := config.getLsbD 2

/-- `CONFIG[3]`: buffer-before-commit (R15). -/
def bufCommit (config : Word) : Bool := config.getLsbD 3

/-- `SEQ in Legal(op)` (R48). -/
def legal (i : Instr) (q : Seq) : Bool :=
  match i with
  | .nop => true
  | .coreReset => true
  | .prngSeed => true
  | .prngNext => true
  | .keyChecksum => true
  | .subOpen => true
  | .subRead => true
  | .ciphInit => true
  | .ciphDec => true
  | .ciphEnc => true
  | .rdOpen => q == .idle
  | .wrOpen => q == .idle
  | .rdHasnext => q == .rHdr || q == .rEntries || q == .rInEntry || q == .rExhausted
  | .rdEntry => q == .rHdr || q == .rEntries
  | .rdPull => q == .rInEntry
  | .rdPut => q == .rInEntry
  | .rdFinish => q == .rInEntry
  | .wrBegin => q == .wPending || q == .wEntries
  | .wrPush => q == .wInEntry
  | .wrEnd => q == .wInEntry

end Sys2Proof.Machine
end

