-- ==== Sys2Proof/Machine/Operands.lean ====
section
/-! DEFINITION. The operand and result forms of the commands (30_encoding.md R43, R46, R47). Operands are read from
`ARG0` and `ARG1` when the command runs (70_reset_and_hazards.md R122); unused bits are ignored. -/

namespace Sys2Proof.Machine

/-- A 32-bit operand in `ARG0`: seed, key or budget (R46). -/
def argWord (s : State) : Word := s.regs.arg0

/-- A 32-bit operand in `ARG1`: the seed of `WR_OPEN` (R43, R46). -/
def argWord1 (s : State) : Word := s.regs.arg1

/-- A byte operand: `ARG0[7:0]` (R46). -/
def argByte (s : State) : Byte := s.regs.arg0.extractLsb' 0 8

/-- The direction operand: `ARG0[0]` (R46). -/
def argDir (s : State) : BitVec 1 := s.regs.arg0.extractLsb' 0 1

/-- The 64-bit operand of `WR_END`: `{ARG1, ARG0}`, `ARG1` high (R46, R93). -/
def argSize (s : State) : DWord := s.regs.arg1 ++ s.regs.arg0

/-- The result of a byte read: the byte zero-extended in `RES0` and `RES1` = 0 (R47). -/
def resByte (b : Byte) (s : State) : State := s.setRes (zextByte b) 0x00000000#32

/-- The end-of-data result: `RES0` = 0 and `RES1[0]` = 1 (R47). -/
def resEod (s : State) : State := s.setRes 0x00000000#32 0x00000001#32

end Sys2Proof.Machine
end

