-- ==== Sys2Proof/Machine/Ops.lean ====
section
/-! DEFINITION. The procedures every command is written over (the primitives of 00_scope.md R8): raising an error, the
byte ports and the scratch buffer, the PRNG, the sub-range, the cipher, and the two resets. The procedures of a unit are
functions over that unit's state alone. -/

namespace Sys2Proof.Machine

/-! ### Errors (60_exceptions.md) -/

/-- `raise e` (R100): `STATUS.ERR <- code(e)` and bit `code(e)` of `ERR_STICKY` is set. This is the whole of taking a
trap (R106): no pc is saved, nothing is vectored, no mode changes. What a class of error does besides (R101 to R103) is
in the command that raises it, before the raise. There is no return from it (R107); `coreReset` below is the only way
out of `FAULT`. -/
def raise (e : Error) (s : State) : State :=
  s.setRegs { s.regs with err := some e, errSticky := s.regs.errSticky ||| e.stickyBit }

/-- The dispatch of a decoded command (R42): `STATUS.ERR <- 0x00`, then `UNSUPPORTED_OPERATION` if `SEQ` is not in
`Legal(op)`, else the rule of the command. -/
def command (i : Instr) (rule : State → Result) (s : State) : Result :=
  let s := s.setErr none
  if legal i s.seq then rule s else .next (raise .unsupportedOperation s)

/-! ### Ports and scratch (20_memory.md R30 to R33, 10_state.md R22) -/

/-- `InAvail()`: the unread bytes of `IN` (R30). -/
def inAvail (p : Ports) : Nat := p.input.length - p.inPos

/-- `InRead8()`: take the next byte (R30). It requires `InAvail() > 0`; every caller checks that first. -/
def inRead8 (p : Ports) : Byte × Ports := (p.input.getD p.inPos 0, { p with inPos := p.inPos + 1 })

/-- Four `InRead8` joined by `BE32` (R33); requires `InAvail() >= 4`. -/
def inRead32 (p : Ports) : Word × Ports :=
  let b0 := inRead8 p
  let b1 := inRead8 b0.2
  let b2 := inRead8 b1.2
  let b3 := inRead8 b2.2
  (be32 b0.1 b1.1 b2.1 b3.1, b3.2)

/-- `while InAvail() > 0: InRead8()`: a short header is consumed (R79, R81). -/
def inDrain (p : Ports) : Ports := { p with inPos := p.inPos + inAvail p }

/-- `OutWrite8` of each byte in order (R31). -/
def outWrite (bs : List Byte) (p : Ports) : Ports := { p with out := p.out ++ bs }

/-- `SCRATCH <- SCRATCH ++ [b]`, or no step when it already holds `SCRATCH_CAP` bytes (R22). -/
def scratchAppend (b : Byte) (s : State) : Option State :=
  match s.scratchCap with
  | none => some (s.setScratch (s.scratch ++ [b]))
  | some cap => if s.scratch.length < cap then some (s.setScratch (s.scratch ++ [b])) else none

/-! ### PRNG (40_prng.md) -/

/-- `W[k]` as `Seed(s)` leaves it (R57). -/
def seedWord (s : Word) : Nat → Word
  | 0 => s
  | k + 1 =>
    let prev := seedWord s k
    BitVec.ofNat 32 (k + 1) + 0x6C078965#32 * (prev ^^^ (prev >>> 30))

/-- `Seed(s)` (R57). -/
def prngSeed (s : Word) : Prng :=
  { w := Vector.ofFn fun k => seedWord s k.val, idx := 0#4, valid := true }

/-- `W[i]`. -/
def Prng.word (p : Prng) (i : BitVec 4) : Word := p.w[i.toNat]'i.isLt

/-- `W[i] <- v`. -/
def Prng.setWord (p : Prng) (i : BitVec 4) (v : Word) : Prng := { p with w := p.w.set i.toNat v i.isLt }

/-- `Next()` (R58): the word drawn and the PRNG after it. Index sums are 4 bits wide, so they are modulo 16. -/
def prngNext (p : Prng) : Word × Prng :=
  let a := p.word p.idx
  let b := p.word (p.idx + 13#4)
  let c := a ^^^ (a <<< 16) ^^^ b ^^^ (b <<< 15)
  let b := p.word (p.idx + 9#4)
  let b := b ^^^ (b >>> 11)
  let p := p.setWord p.idx (b ^^^ c)
  let a := p.word p.idx
  let d := a ^^^ ((a <<< 5) &&& 0xDA442D24#32)
  let p := { p with idx := p.idx + 15#4 }
  let a := p.word p.idx
  let p := p.setWord p.idx (a ^^^ (a <<< 2) ^^^ (b <<< 28) ^^^ c ^^^ (c <<< 18) ^^^ d)
  (p.word p.idx, p)

/-- `(key mod 31) + 5` (R59), on the unsigned key. -/
def keyRounds (key : Word) : Nat := key.toNat % 31 + 5

/-- `n` rounds of `acc <- acc ^ Next()` (R59). -/
def xorDraws : Nat → Word → Prng → Word × Prng
  | 0, acc, p => (acc, p)
  | n + 1, acc, p =>
    let d := prngNext p
    xorDraws n (acc ^^^ d.1) d.2

/-- `KeyChecksum(key)` (R59), without rotation (90_conflicts.md C8). -/
def keyChecksum (key : Word) (p : Prng) : Word × Prng := xorDraws (keyRounds key) 0x2DF4A1CD#32 p

/-- The PRNG unit after a reset during a run: `IDX` = 0, `PRNG_VALID` = 0, and `W[0..15]` sixteen free words, the
`from`-th on (R18, R24; log 2). -/
def prngUnspecified (start : Nat) : Prng :=
  { w := Vector.ofFn fun k => Config.freeWord (start + k.val), idx := 0#4, valid := false }

/-! ### Sub-range (41_subrange.md) -/

/-- `SubOpen(n)` (R64). -/
def subOpen (n : Word) : SubRange := { n := n, cnt := 0x00000000#32 }

/-- `SubRead()` (R65); `none` is `EOD`, which consumes and changes nothing. -/
def subRead (u : SubRange) (p : Ports) : Option (Byte × SubRange × Ports) :=
  if u.cnt = u.n then none
  else if inAvail p = 0 then none
  else
    let b := inRead8 p
    some (b.1, { u with cnt := u.cnt + 1 }, b.2)

/-! ### Cipher (42_cipher.md) -/

/-- `CipherInit(d)` (R69): no draw. -/
def cipherInit (d : BitVec 1) : Cipher := { ck := Config.ckPreinit, ckSeeded := false, pos := 0, dir := d }

/-- `SeedIfNeeded()` (R70): the accumulator's seeding draw, on a stream's first byte. -/
def seedIfNeeded (p : Prng) (c : Cipher) : Prng × Cipher :=
  if c.ckSeeded then (p, c)
  else
    let d := prngNext p
    (d.2, { c with ck := d.1, ckSeeded := true })

/-- `KS()` at position `pos` (R71): `(Next() >> (pos mod 16))[7:0]`. -/
def keystream (p : Prng) (pos : DWord) : Byte × Prng :=
  let r := prngNext p
  (lowByte (r.1 >>> (pos.toNat % 16)), r.2)

/-- `CkUpdate(p)` at position `POS` (R72). -/
def ckUpdate (b : Byte) (c : Cipher) : Cipher :=
  { c with ck := zextByte b ^^^ rotr32 c.ck (c.pos.toNat % 7 + 1) }

/-- `POS <- POS + 1`. -/
def posNext (c : Cipher) : Cipher := { c with pos := c.pos + 1 }

/-- `DecryptByte(c)` (R73); `none` where there is no step, at `POS` = 2^64 - 1. -/
def decryptByte (b : Byte) (p : Prng) (c : Cipher) : Option (Byte × Prng × Cipher) :=
  if c.pos = BitVec.allOnes 64 then none
  else
    let sc := seedIfNeeded p c
    let ks := keystream sc.1 sc.2.pos
    let plain := b ^^^ ks.1
    some (plain, ks.2, posNext (ckUpdate plain sc.2))

/-- `EncryptByte(p)` (R74); `none` where there is no step, at `POS` = 2^64 - 1. -/
def encryptByte (b : Byte) (p : Prng) (c : Cipher) : Option (Byte × Prng × Cipher) :=
  if c.pos = BitVec.allOnes 64 then none
  else
    let sc := seedIfNeeded p c
    let folded := ckUpdate b sc.2
    let ks := keystream sc.1 folded.pos
    some (b ^^^ ks.1, ks.2, posNext folded)

/-! ### Resets (10_state.md R24) -/

/-- The "after `CORE_RESET`" column of R24, applied by `CORE_RESET` (R98): `ARG0`, `ARG1`, `CONFIG`, `ERR_STICKY` and
the ports are kept, `W[0..15]` become free words. -/
def coreReset (s : State) : State :=
  { s with
    regs := { s.regs with res0 := 0x00000000#32, res1 := 0x00000000#32, err := none }
    seq := .idle
    prng := prngUnspecified s.freeCount
    cipher := Cipher.reset
    sub := SubRange.reset
    hdr := Header.reset
    entry := Entry.reset
    scratch := []
    freeCount := s.freeCount + 16 }

/-- Power-on reset during a run (R113, the power-on column of R24): `coreReset`, and the registers that survive
`CORE_RESET` cleared too. The ports are not touched (R23, R24). -/
def powerOnReset (s : State) : State := (coreReset s).setRegs HostRegs.powerOn

end Sys2Proof.Machine
end

