-- ==== Sys2Proof/Machine/CipherFamily.lean ====
section
/-! DEFINITION. The cipher commands (42_cipher.md R75 to R77). -/

namespace Sys2Proof.Machine

/-- `CIPH_INIT` (R75). -/
def execCiphInit (s : State) : Result := command .ciphInit (fun s => .next (s.setCipher (cipherInit (argDir s)))) s

/-- The end of a cipher byte command: the byte in `RES0`, the PRNG and the cipher after it; or no step (R73). -/
def cipherResult (r : Option (Byte × Prng × Cipher)) (s : State) : Result :=
  match r with
  | none => .fault .posExhausted
  | some (b, p, c) => .next (resByte b ((s.setPrng p).setCipher c))

/-- The rule of `CIPH_DEC` (R76): the direction is checked before the seed (R104 item 4). -/
def ciphDecRule (s : State) : Result :=
  if s.cipher.dir ≠ 0#1 then .next (raise .unsupportedOperation s)
  else if s.prng.valid = false then .next (raise .unseeded s)
  else cipherResult (decryptByte (argByte s) s.prng s.cipher) s

/-- `CIPH_DEC` (R76). -/
def execCiphDec (s : State) : Result := command .ciphDec ciphDecRule s

/-- The rule of `CIPH_ENC` (R77). -/
def ciphEncRule (s : State) : Result :=
  if s.cipher.dir ≠ 1#1 then .next (raise .unsupportedOperation s)
  else if s.prng.valid = false then .next (raise .unseeded s)
  else cipherResult (encryptByte (argByte s) s.prng s.cipher) s

/-- `CIPH_ENC` (R77). -/
def execCiphEnc (s : State) : Result := command .ciphEnc ciphEncRule s

end Sys2Proof.Machine
end

