-- ==== Sys2Proof/Machine/PrngFamily.lean ====
section
/-! DEFINITION. The PRNG commands (40_prng.md R60 to R62). -/

namespace Sys2Proof.Machine

/-- `PRNG_SEED` (R60). -/
def execPrngSeed (s : State) : Result := command .prngSeed (fun s => .next (s.setPrng (prngSeed (argWord s)))) s

/-- The rule of `PRNG_NEXT` (R61). -/
def prngNextRule (s : State) : Result :=
  if s.prng.valid = false then .next (raise .unseeded s)
  else
    let d := prngNext s.prng
    .next ((s.setPrng d.2).setRes d.1 0x00000000#32)

/-- `PRNG_NEXT` (R61). -/
def execPrngNext (s : State) : Result := command .prngNext prngNextRule s

/-- The rule of `KEY_CHECKSUM` (R62): it neither seeds nor compares. -/
def keyChecksumRule (s : State) : Result :=
  if s.prng.valid = false then .next (raise .unseeded s)
  else
    let kc := keyChecksum (argWord s) s.prng
    .next ((s.setPrng kc.2).setRes kc.1 0x00000000#32)

/-- `KEY_CHECKSUM` (R62). -/
def execKeyChecksum (s : State) : Result := command .keyChecksum keyChecksumRule s

end Sys2Proof.Machine
end

