-- ==== Sys2Proof/Machine/Reader.lean ====
section
/-! DEFINITION. The container reader (43_reader.md R79 to R84). -/

namespace Sys2Proof.Machine

/-- A short header (R79, R81): what is left of `IN` is consumed, `SEQ <- FAULT`, `TRUNCATED`; no seeding, no draw. -/
def raiseTruncated (s : State) : State :=
  raise .truncated ((s.setPorts (inDrain s.ports)).setSeq .fault)

/-- The rule of `RD_OPEN` (R79). -/
def rdOpenRule (s : State) : Result :=
  if inAvail s.ports < 8 then .next (raiseTruncated s)
  else
    let key := argWord s
    let chk := inRead32 s.ports
    let seed := inRead32 chk.2
    let kc := keyChecksum key (prngSeed (seed.1 ^^^ key))
    let hdr := { s.hdr with hdrChk := chk.1, hdrSeed := seed.1, keyR := key, seedR := seed.1 }
    let t := (((s.setPorts seed.2).setHdr hdr).setPrng kc.2).setRes kc.1 chk.1
    if kc.1 ≠ chk.1 ∧ skipKeyChk s.regs.config = false then .next (raise .keyChecksum (t.setSeq .fault))
    else .next (t.setSeq .rHdr)

/-- `RD_OPEN` (R79). -/
def execRdOpen (s : State) : Result := command .rdOpen rdOpenRule s

/-- The rule of `RD_HASNEXT` (R80): it reads `InAvail()` only. -/
def rdHasnextRule (s : State) : Result :=
  if inAvail s.ports > 0 then .next (s.setRes 0x00000001#32 0x00000000#32)
  else
    let t := s.setRes 0x00000000#32 0x00000000#32
    if s.seq = .rHdr ∨ s.seq = .rEntries then .next (t.setSeq .rExhausted) else .next t

/-- `RD_HASNEXT` (R80). -/
def execRdHasnext (s : State) : Result := command .rdHasnext rdHasnextRule s

/-- The rule of `RD_ENTRY` (R81): three fields, then mask 1 before mask 2. -/
def rdEntryRule (s : State) : Result :=
  if inAvail s.ports < 12 then .next (raiseTruncated s)
  else
    let f0 := inRead32 s.ports
    let f1 := inRead32 f0.2
    let f2 := inRead32 f1.2
    let m1 := prngNext s.prng
    let m2 := prngNext m1.2
    let csize := f0.1 ^^^ m1.1
    let dsize := f1.1 ^^^ m2.1
    let entry := { s.entry with
      csize := csize
      dsize := dsize
      chk := f2.1
      copied := 0x00000000#32
      mask1 := m1.1
      mask2 := m2.1
      bufLatched := bufCommit s.regs.config }
    let t := ((s.setPorts f2.2).setPrng m2.2).setEntry entry
    let t := ((t.setSub (subOpen csize)).setCipher (cipherInit 0#1)).setScratch []
    .next ((t.setRes csize dsize).setSeq .rInEntry)

/-- `RD_ENTRY` (R81). -/
def execRdEntry (s : State) : Result := command .rdEntry rdEntryRule s

/-- The rule of `RD_PULL` (R82): `DecryptByte` directly, testing neither `DIR` nor `PRNG_VALID`. -/
def rdPullRule (s : State) : Result :=
  match subRead s.sub s.ports with
  | none => .next (resEod s)
  | some (b, u, p) => cipherResult (decryptByte b s.prng s.cipher) ((s.setSub u).setPorts p)

/-- `RD_PULL` (R82). -/
def execRdPull (s : State) : Result := command .rdPull rdPullRule s

/-- The rule of `RD_PUT` (R83): a byte beyond `E_DSIZE` is dropped. -/
def rdPutRule (s : State) : Result :=
  if s.entry.copied < s.entry.dsize then
    let t := s.setEntry { s.entry with copied := s.entry.copied + 1 }
    if s.entry.bufLatched then
      match scratchAppend (argByte s) t with
      | none => .fault .scratchFull
      | some t => .next t
    else .next (t.setPorts (outWrite [argByte s] s.ports))
  else .next s

/-- `RD_PUT` (R83). -/
def execRdPut (s : State) : Result := command .rdPut rdPutRule s

/-- The outcome of the checks of `RD_FINISH` (R84): the length check first (R104 item 6). -/
def finishError (s : State) : Option Error :=
  if skipLenChk s.regs.config = false ∧ (s.entry.copied ≠ s.entry.dsize ∨ s.sub.cnt ≠ s.entry.csize) then
    some .sizeMismatch
  else if skipEntryChk s.regs.config = false ∧ s.cipher.ck ≠ s.entry.chk then some .entryChecksum
  else none

/-- The rule of `RD_FINISH` (R84): `SCRATCH` is committed only when no check fails, and emptied in any case. -/
def rdFinishRule (s : State) : Result :=
  let t := ((s.setRes s.entry.copied s.cipher.ck).setScratch []).setSeq .rEntries
  match finishError s with
  | some e => .next (raise e t)
  | none => if s.entry.bufLatched then .next (t.setPorts (outWrite s.scratch s.ports)) else .next t

/-- `RD_FINISH` (R84). -/
def execRdFinish (s : State) : Result := command .rdFinish rdFinishRule s

end Sys2Proof.Machine
end

