-- ==== Sys2Proof/Machine/SubRangeFamily.lean ====
section
/-! DEFINITION. The sub-range commands (41_subrange.md R66, R67). -/

namespace Sys2Proof.Machine

/-- `SUB_OPEN` (R66). -/
def execSubOpen (s : State) : Result := command .subOpen (fun s => .next (s.setSub (subOpen (argWord s)))) s

/-- The rule of `SUB_READ` (R67): the byte as it stands on `IN`; no draw. -/
def subReadRule (s : State) : Result :=
  match subRead s.sub s.ports with
  | none => .next (resEod s)
  | some (b, u, p) => .next (resByte b ((s.setSub u).setPorts p))

/-- `SUB_READ` (R67). -/
def execSubRead (s : State) : Result := command .subRead subReadRule s

end Sys2Proof.Machine
end

