-- ==== Sys2Proof/Machine/System.lean ====
section
/-! DEFINITION. The system commands (45_system.md). -/

namespace Sys2Proof.Machine

/-- `NOP` (R97): nothing but what dispatch writes. -/
def execNop (s : State) : Result := command .nop (fun s => .next s) s

/-- `CORE_RESET` (R98). -/
def execCoreReset (s : State) : Result := command .coreReset (fun s => .next (coreReset s)) s

end Sys2Proof.Machine
end

