-- ==== Sys2Proof/Machine/Writer.lean ====
section
/-! DEFINITION. The container writer (44_writer.md R90 to R93). No writer command reads `CONFIG` (R115). -/

namespace Sys2Proof.Machine

/-- The rule of `WR_OPEN` (R90): it seeds and draws nothing. -/
def wrOpenRule (s : State) : Result :=
  let key := argWord s
  let seed := argWord1 s
  let hdr := { s.hdr with keyR := key, seedR := seed, hdrDone := false }
  .next (((s.setHdr hdr).setPrng (prngSeed (seed ^^^ key))).setSeq .wPending)

/-- `WR_OPEN` (R90). -/
def execWrOpen (s : State) : Result := command .wrOpen wrOpenRule s

/-- The lazy global header of the first `WR_BEGIN` (R91): the key-checksum draws, the header registers and 8 bytes. -/
def emitHeader (s : State) : State :=
  if s.hdr.hdrDone then s
  else
    let kc := keyChecksum s.hdr.keyR s.prng
    let hdr := { s.hdr with hdrChk := kc.1, hdrSeed := s.hdr.seedR, hdrDone := true }
    ((s.setPrng kc.2).setHdr hdr).setPorts (outWrite (globalHeaderBytes kc.1 s.hdr.seedR) s.ports)

/-- The rule of `WR_BEGIN` (R91): the header if it is not out yet, then the two masks. -/
def wrBeginRule (s : State) : Result :=
  let s := emitHeader s
  let m1 := prngNext s.prng
  let m2 := prngNext m1.2
  let t := (s.setPrng m2.2).setEntry { s.entry with mask1 := m1.1, mask2 := m2.1, clen := 0#64 }
  let t := (t.setCipher (cipherInit 1#1)).setScratch []
  .next ((t.setRes m1.1 m2.1).setSeq .wInEntry)

/-- `WR_BEGIN` (R91). -/
def execWrBegin (s : State) : Result := command .wrBegin wrBeginRule s

/-- The rule of `WR_PUSH` (R92): `EncryptByte` directly, testing neither `DIR` nor `PRNG_VALID`. -/
def wrPushRule (s : State) : Result :=
  match encryptByte (argByte s) s.prng s.cipher with
  | none => .fault .posExhausted
  | some (b, p, c) =>
    match scratchAppend b ((s.setPrng p).setCipher c) with
    | none => .fault .scratchFull
    | some t =>
      if s.entry.clen = BitVec.allOnes 64 then .fault .clenExhausted
      else .next (resByte b (t.setEntry { s.entry with clen := s.entry.clen + 1 }))

/-- `WR_PUSH` (R92). -/
def execWrPush (s : State) : Result := command .wrPush wrPushRule s

/-- The rule of `WR_END` (R93). -/
def wrEndRule (s : State) : Result :=
  let ds := argSize s
  if s.entry.clen > 0xFFFFFFFF#64 ∨ ds > 0xFFFFFFFF#64 then
    .next (raise .sizeOverflow ((s.setScratch []).setSeq .fault))
  else
    let csize := lo32 s.entry.clen
    let dsize := lo32 ds
    let ck := s.cipher.ck
    let bytes := entryHeaderBytes csize dsize s.entry.mask1 s.entry.mask2 ck ++ s.scratch
    let t := s.setEntry { s.entry with csize := csize, dsize := dsize, chk := ck }
    let t := ((t.setPorts (outWrite bytes s.ports)).setRes csize ck).setScratch []
    .next (t.setSeq .wEntries)

/-- `WR_END` (R93). -/
def execWrEnd (s : State) : Result := command .wrEnd wrEndRule s

end Sys2Proof.Machine
end

