-- ==== Sys2Proof/Machine/Dispatch.lean ====
section
/-! DEFINITION. The dispatch of a decoded command to its meaning: one arm per row of spec/opcode_table.json. -/

namespace Sys2Proof.Machine

/-- What a command does to a state (30_encoding.md R42, R43). -/
def exec (i : Instr) (s : State) : Host.Outcome State Fault Refusal :=
  match i with
  | .nop => Sys2Proof.Machine.execNop s
  | .prngSeed => Sys2Proof.Machine.execPrngSeed s
  | .prngNext => Sys2Proof.Machine.execPrngNext s
  | .keyChecksum => Sys2Proof.Machine.execKeyChecksum s
  | .subOpen => Sys2Proof.Machine.execSubOpen s
  | .subRead => Sys2Proof.Machine.execSubRead s
  | .ciphInit => Sys2Proof.Machine.execCiphInit s
  | .ciphDec => Sys2Proof.Machine.execCiphDec s
  | .ciphEnc => Sys2Proof.Machine.execCiphEnc s
  | .rdOpen => Sys2Proof.Machine.execRdOpen s
  | .rdHasnext => Sys2Proof.Machine.execRdHasnext s
  | .rdEntry => Sys2Proof.Machine.execRdEntry s
  | .rdPull => Sys2Proof.Machine.execRdPull s
  | .rdPut => Sys2Proof.Machine.execRdPut s
  | .rdFinish => Sys2Proof.Machine.execRdFinish s
  | .wrOpen => Sys2Proof.Machine.execWrOpen s
  | .wrBegin => Sys2Proof.Machine.execWrBegin s
  | .wrPush => Sys2Proof.Machine.execWrPush s
  | .wrEnd => Sys2Proof.Machine.execWrEnd s
  | .coreReset => Sys2Proof.Machine.execCoreReset s

end Sys2Proof.Machine
end

