-- ==== Sys2Proof/Machine/HostPort.lean ====
section
/-! DEFINITION. The host side of the core: the register map and what a `MemRead` and a `MemWrite` do (20_memory.md R26
to R29), the dispatch of a command word (30_encoding.md R42), and one event from outside. -/

namespace Sys2Proof.Machine

/-- The byte offset of a register (R27). -/
def regOffset : Reg → Nat
  | .cmd => 0x000
  | .arg0 => 0x004
  | .arg1 => 0x008
  | .config => 0x00C
  | .res0 => 0x010
  | .res1 => 0x014
  | .status => 0x018
  | .errSticky => 0x01C
  | .prngIdx => 0x020
  | .cksum => 0x024
  | .posLo => 0x028
  | .posHi => 0x02C
  | .subN => 0x030
  | .subCnt => 0x034
  | .eCsize => 0x038
  | .eDsize => 0x03C
  | .eChk => 0x040
  | .copied => 0x044
  | .mask1 => 0x048
  | .mask2 => 0x04C
  | .clenLo => 0x050
  | .clenHi => 0x054
  | .hdrChk => 0x058
  | .hdrSeed => 0x05C
  | .keyR => 0x060
  | .seedR => 0x064
  | .scratchLenLo => 0x068
  | .scratchLenHi => 0x06C
  | .prngW k => 0x080 + 4 * k.val

/-- Every register of the map (R27). -/
def allRegs : List Reg :=
  [.cmd, .arg0, .arg1, .config, .res0, .res1, .status, .errSticky, .prngIdx, .cksum, .posLo, .posHi, .subN, .subCnt,
    .eCsize, .eDsize, .eChk, .copied, .mask1, .mask2, .clenLo, .clenHi, .hdrChk, .hdrSeed, .keyR, .seedR,
    .scratchLenLo, .scratchLenHi] ++
  ([0, 1, 2, 3, 4, 5, 6, 7, 8, 9, 10, 11, 12, 13, 14, 15] : List (Fin 16)).map Reg.prngW

/-- The register at an offset, if the map has one there; any other offset is reserved (R27). -/
def regAt (addr : Nat) : Option Reg := allRegs.find? fun r => regOffset r == addr

/-- The value a `MemRead` of a register returns (R27, R28). `CMD` reads as zero; `PRNG_W<k>` is a free word while
`PRNG_VALID` = 0 (log 2); `SCRATCH_LEN` is the length of `SCRATCH` in 64 bits. -/
def regValue (r : Reg) (s : State) : Word :=
  match r with
  | .cmd => 0x00000000#32
  | .arg0 => s.regs.arg0
  | .arg1 => s.regs.arg1
  | .config => s.regs.config &&& configMask
  | .res0 => s.regs.res0
  | .res1 => s.regs.res1
  | .status => statusWord s
  | .errSticky => s.regs.errSticky &&& stickyMask
  | .prngIdx => s.prng.idx.setWidth 32
  | .cksum => s.cipher.ck
  | .posLo => lo32 s.cipher.pos
  | .posHi => hi32 s.cipher.pos
  | .subN => s.sub.n
  | .subCnt => s.sub.cnt
  | .eCsize => s.entry.csize
  | .eDsize => s.entry.dsize
  | .eChk => s.entry.chk
  | .copied => s.entry.copied
  | .mask1 => s.entry.mask1
  | .mask2 => s.entry.mask2
  | .clenLo => lo32 s.entry.clen
  | .clenHi => hi32 s.entry.clen
  | .hdrChk => s.hdr.hdrChk
  | .hdrSeed => s.hdr.hdrSeed
  | .keyR => s.hdr.keyR
  | .seedR => s.hdr.seedR
  | .scratchLenLo => lo32 (BitVec.ofNat 64 s.scratch.length)
  | .scratchLenHi => hi32 (BitVec.ofNat 64 s.scratch.length)
  | .prngW k => if s.prng.valid then s.prng.w[k] else Config.freeWord s.freeCount

/-- How many free words a read of a register takes: one for `PRNG_W<k>` while `PRNG_VALID` = 0 (log 2). -/
def freeWordsRead (r : Reg) (s : State) : Nat :=
  match r with
  | .prngW _ => if s.prng.valid then 0 else 1
  | _ => 0

/-- An access of R29's kinds has no step: another width, an unaligned offset, an offset outside the window. -/
def accessFault (addr nbytes : Nat) : Option Fault :=
  if nbytes ≠ 4 then some .accessWidth
  else if addr % 4 ≠ 0 then some .accessMisaligned
  else if addr < Config.regSpace then none
  else some .accessOutsideWindow

/-- Return a value to the host: it joins the values the host has read (log 8). -/
def hostReturn (v : Word) (s : State) : State := s.setHostReads (s.hostReads ++ [v])

/-- `MemRead(addr, nbytes)` (R26, R28): the value is returned to the host and no state of the core changes; a reserved
offset reads as zero. -/
def memRead (addr nbytes : Nat) (s : State) : Result :=
  match accessFault addr nbytes with
  | some f => .fault f
  | none =>
    match regAt addr with
    | some r => .next (hostReturn (regValue r s) (s.setFreeCount (s.freeCount + freeWordsRead r s)))
    | none => .next (hostReturn 0x00000000#32 s)

/-- A word written to `CMD` (R42): an illegal word raises `ILLEGAL_COMMAND` and runs nothing (R44, R45). -/
def runWord (w : Word) (s : State) : Result :=
  match decode w with
  | .ok i => exec i s
  | .error _ => .next (raise .illegalCommand (s.setErr none))

/-- A write to a register (R28): `CMD` runs one command; `ARG0`, `ARG1` and the low four bits of `CONFIG` are written;
a read-only register ignores it. -/
def regWrite (r : Reg) (v : Word) (s : State) : Result :=
  match r with
  | .cmd => runWord v s
  | .arg0 => .next (s.setRegs { s.regs with arg0 := v })
  | .arg1 => .next (s.setRegs { s.regs with arg1 := v })
  | .config => .next (s.setRegs { s.regs with config := v &&& configMask })
  | _ => .next s

/-- `MemWrite(addr, nbytes, v)` (R26, R28): a reserved offset ignores it. -/
def memWrite (addr nbytes : Nat) (v : Word) (s : State) : Result :=
  match accessFault addr nbytes with
  | some f => .fault f
  | none =>
    match regAt addr with
    | some r => regWrite r v s
    | none => .next s

/-- What one event from outside does (R26, R113). -/
def handleEvent (e : HostEvent) (s : State) : Result :=
  match e with
  | .memRead addr nbytes => memRead addr nbytes s
  | .memWrite addr nbytes v => memWrite addr nbytes v s
  | .powerOnReset => .next (powerOnReset s)

/-- The next step of the machine: the first waiting event takes effect; with none waiting, nothing changes (R105,
R112: the core holds its state between commands; R123: the run ends when the host issues no more). -/
def nextEvent (s : State) : Result :=
  match s.events with
  | [] => .next s
  | e :: rest => handleEvent e (s.setEvents rest)

/-- The event that writes a command word to `CMD`, with `nbits` bits of it given and the others 0 (R41, R42). -/
def commandEvent (nbits w : Nat) : HostEvent := .memWrite 0x000 4 (BitVec.ofNat 32 (w % 2 ^ nbits))

end Sys2Proof.Machine
end

