-- ==== Sys2Proof/Machine/Step.lean ====
section
/-! DEFINITION. The step function. The core fetches nothing (10_state.md R12): a step takes the next event from outside,
which for a command is one write of `CMD`, one atomic transition (70_reset_and_hazards.md R116). -/

namespace Sys2Proof.Machine

/-- One step: the next event from outside takes effect. -/
def step (s : State) : Host.Outcome State Fault Refusal := nextEvent s

/-- The state in which the next event is a write of this command word to `CMD` (log 6). -/
def State.withFetchWord (s : State) (nbits w : Nat) : State := s.setEvents (commandEvent nbits w :: s.events)

end Sys2Proof.Machine
end

