-- ==== Sys2Proof/Machine/Assembler.lean ====
section
/-! DEFINITION. The spec's notation for host programs (30_encoding.md R53, R54): the host accesses each statement stands
for, and the encoding of a program as its `(offset, value)` writes. -/

namespace Sys2Proof.Machine

/-- `wr <REG>, v`: `MemWrite(offset(REG), 4, v)` (R53). -/
def wrEvent (r : Reg) (v : Word) : HostEvent := .memWrite (regOffset r) 4 v

/-- `rd <REG>`: `MemRead(offset(REG), 4)` (R53). -/
def rdEvent (r : Reg) : HostEvent := .memRead (regOffset r) 4

/-- `<MNEMONIC>`: `wr CMD, OPC(MNEMONIC)` (R53). -/
def cmdEvent (i : Instr) : HostEvent := wrEvent .cmd (encode i)

/-- The accesses a statement stands for (R53, R54). -/
def assembleStmt : Stmt → List HostEvent
  | .wr r imm => [wrEvent r (BitVec.ofNat 32 imm)]
  | .rd r => [rdEvent r]
  | .cmd i => [cmdEvent i]
  | .cmdArg i a => [wrEvent .arg0 (BitVec.ofNat 32 a), cmdEvent i]
  | .wrOpenArgs key seed =>
    [wrEvent .arg0 (BitVec.ofNat 32 key), wrEvent .arg1 (BitVec.ofNat 32 seed), cmdEvent .wrOpen]
  | .wrEndSize n =>
    [wrEvent .arg0 (lo32 (BitVec.ofNat 64 n)), wrEvent .arg1 (hi32 (BitVec.ofNat 64 n)), cmdEvent .wrEnd]
  | .config a => [wrEvent .config (BitVec.ofNat 32 a)]

/-- The accesses of a program, in order. -/
def assemble (prog : List Stmt) : List HostEvent := prog.flatMap assembleStmt

/-- What an event adds to a program's encoding: its `(offset, value)` if it is a write; reads encode nothing (R53). -/
def encodedWrite : HostEvent → List (Nat × Word)
  | .memWrite addr _ v => [(addr, v)]
  | .memRead _ _ => []
  | .powerOnReset => []

/-- The encoding of a program (R53). -/
def encodeProgram (prog : List Stmt) : List (Nat × Word) := (assemble prog).flatMap encodedWrite

end Sys2Proof.Machine
end

