-- ==== Sys2Proof/Safety.lean ====
section
/-! DEFINITION. The terms claims about the core are stated in: the invariant every step keeps, runs of host programs, the
draws of the PRNG, one byte through the cipher as the spec's text gives it, and the container programs of
43_reader.md, 44_writer.md and 70_reset_and_hazards.md R114, R115. -/

namespace Sys2Proof.Machine

/-! ### The PRNG as a sequence of draws -/

/-- The PRNG after `n` draws. -/
def prngAfter : Nat → Prng → Prng
  | 0, p => p
  | n + 1, p => prngAfter n (prngNext p).2

/-- The words of the next `n` draws, in order. -/
def prngDraws : Nat → Prng → List Word
  | 0, _ => []
  | n + 1, p => (prngNext p).1 :: prngDraws n (prngNext p).2

/-- The XOR of the next `n` draws over the key-checksum constant of R59. -/
def xorOfDraws (n : Nat) (p : Prng) : Word := (prngDraws n p).foldl (· ^^^ ·) 0x2DF4A1CD#32

/-! ### Records of what a command leaves -/

/-- The state `s` with `STATUS.ERR` = 0 and nothing else changed. -/
def State.accepted (s : State) : State := { s with regs := { s.regs with err := none } }

/-- The state `s` with `STATUS.ERR` = 0 and the two results written. -/
def State.answered (s : State) (r0 r1 : Word) : State :=
  { s with regs := { s.regs with err := none, res0 := r0, res1 := r1 } }

/-- The state `s` with `STATUS.ERR` = `e`, the given bit of `ERR_STICKY` set, and nothing else changed. -/
def State.errored (s : State) (e : Error) (bit : Word) : State :=
  { s with regs := { s.regs with err := some e, errSticky := s.regs.errSticky ||| bit } }

/-! ### One cipher byte (R70 to R74) -/

/-- The accumulator and the PRNG once the seeding draw has been taken, if it was still to take. -/
def State.byteSeed (s : State) : Word × Prng :=
  if s.cipher.ckSeeded then (s.cipher.ck, s.prng) else prngNext s.prng

/-- The keystream byte at the current position. -/
def State.keyByte (s : State) : Byte :=
  ((prngNext s.byteSeed.2).1 >>> (s.cipher.pos.toNat % 16)).setWidth 8

/-- The state after the byte at the current position, whose plain side is `plain`. -/
def State.afterByte (s : State) (plain : Byte) : State :=
  { s with
    prng := (prngNext s.byteSeed.2).2
    cipher := { s.cipher with
      ck := plain.setWidth 32 ^^^ s.byteSeed.1.rotateRight (s.cipher.pos.toNat % 7 + 1)
      ckSeeded := true
      pos := s.cipher.pos + 1 } }

/-! ### The invariant -/

/-- A container is open in this `SEQ` value: every value but `IDLE` and `FAULT` (R13). -/
def Seq.isOpen (q : Seq) : Bool := q != .idle && q != .fault

/-- What holds in every reachable state, field by field; every step keeps it. -/
structure State.Inv (s : State) : Prop where
  /-- `SUB_CNT` <= `SUB_N` (R19) -/
  subBudget : s.sub.cnt ≤ s.sub.n
  /-- `IN_POS` <= |`INPUT`| (R23) -/
  inBounds : s.ports.inPos ≤ s.ports.input.length
  /-- `SCRATCH` holds at most `SCRATCH_CAP` bytes (R22) -/
  scratchFits : ∀ cap, s.scratchCap = some cap → s.scratch.length ≤ cap
  /-- only bits [8:1] of `ERR_STICKY` are ever set (R16) -/
  stickyBits : s.regs.errSticky &&& ~~~stickyMask = 0
  /-- only bits [3:0] of `CONFIG` are ever set (R15) -/
  configBits : s.regs.config &&& ~~~configMask = 0
  /-- an open container has a seeded PRNG (R79, R90) -/
  openSeeded : s.seq.isOpen = true → s.prng.valid = true
  /-- an unseeded PRNG stands at index 0 (R18, R24) -/
  unseededIdx : s.prng.valid = false → s.prng.idx = 0
  /-- the global header is out once an entry has begun (R13, R91) -/
  headerOut : s.seq = .wEntries ∨ s.seq = .wInEntry → s.hdr.hdrDone = true
  /-- `COPIED` never exceeds `E_DSIZE` (R83) -/
  copiedCapped : s.seq = .rInEntry → s.entry.copied ≤ s.entry.dsize
  /-- outside an entry `SCRATCH` is empty (R84, R93, R103) -/
  scratchIdle : s.seq ≠ .rInEntry → s.seq ≠ .wInEntry → s.scratch = []
  /-- in a reader entry `SCRATCH` holds the copied bytes if the entry is buffered, else nothing (R22, R83) -/
  scratchReader : s.seq = .rInEntry →
    s.scratch.length = if s.entry.bufLatched then s.entry.copied.toNat else 0
  /-- in a writer entry `SCRATCH` holds the pushed bytes, `CLEN` of them (R21, R22) -/
  scratchWriter : s.seq = .wInEntry → s.scratch.length = s.entry.clen.toNat

/-! ### Runs -/

/-- `n` steps, stopping at the first fault or refusal. -/
def runSteps : Nat → State → Result
  | 0, s => .next s
  | n + 1, s =>
    match step s with
    | .next t => runSteps n t
    | .fault f => .fault f
    | .refused r => .refused r

/-- The run of a list of events from a state: they are what the host has yet to do, and each is one step. -/
def runEvents (es : List HostEvent) (s : State) : Result := runSteps es.length (s.setEvents es)

/-- The run of a host program. -/
def runProgram (prog : List Stmt) (s : State) : Result := runEvents (assemble prog) s

/-! ### Container programs (R114, R115) -/

/-- An entry as the host has it: the compressed bytes and the decompressed bytes. -/
structure EntryData where
  packed : List Byte
  text : List Byte
deriving DecidableEq, Repr

/-- `write_entry` in host terms (44_writer.md), the checksum read back from `RES1` after `WR_END`. -/
def writeEntry (e : EntryData) : List Stmt :=
  .cmd .wrBegin :: e.packed.map (fun c => .cmdArg .wrPush c.toNat) ++ [.wrEndSize e.text.length, .rd .res1]

/-- The writer boot sequence (R115). -/
def writeContainer (key seed : Word) (es : List EntryData) : List Stmt :=
  .wrOpenArgs key.toNat seed.toNat :: es.flatMap writeEntry

/-- `read_entry` in host terms (43_reader.md): the header, `RD_PULL` until `EOD` (the last one answers `RES1` = 1), one
`RD_PUT` per decompressed byte, and `RD_FINISH`, reading the results the host needs. -/
def readEntry (e : EntryData) : List Stmt :=
  [.cmd .rdEntry, .rd .res0, .rd .res1] ++ e.packed.flatMap (fun _ => [.cmd .rdPull, .rd .res0, .rd .res1]) ++
    [.cmd .rdPull, .rd .res1] ++ e.text.map (fun d => .cmdArg .rdPut d.toNat) ++ [.cmd .rdFinish, .rd .res1]

/-- The reader boot sequence (R114) for these entries, ending with `RD_HASNEXT`. -/
def readContainer (key : Word) (es : List EntryData) : List Stmt :=
  .cmdArg .rdOpen key.toNat :: es.flatMap readEntry ++ [.cmd .rdHasnext, .rd .res0]

/-- What the host reads while `readEntry` runs, when entry and writer agree and the entry's checksum is `ck`. -/
def entryReads (e : EntryData) (ck : Word) : List Word :=
  [BitVec.ofNat 32 e.packed.length, BitVec.ofNat 32 e.text.length] ++
    e.packed.flatMap (fun c => [c.setWidth 32, 0x00000000#32]) ++ [0x00000001#32] ++ [ck]

/-- Encrypting a stream of bytes by unit commands, reading each cipher byte back (R77). -/
def encryptProgram (bs : List Byte) : List Stmt :=
  .cmdArg .ciphInit 1 :: bs.flatMap fun b => [.cmdArg .ciphEnc b.toNat, .rd .res0]

/-- Decrypting a stream of bytes by unit commands, reading each plain byte back (R76). -/
def decryptProgram (bs : List Byte) : List Stmt :=
  .cmdArg .ciphInit 0 :: bs.flatMap fun b => [.cmdArg .ciphDec b.toNat, .rd .res0]

end Sys2Proof.Machine
end

