-- ==== Sys2Proof/Certificates/Slice0/Obligations.lean ====
section
/-! DEFINITION. The statements about the core, for the provers. Each docstring names the rule of spec/ it formalises.
Where a statement speaks of what the model chose and the spec leaves open, its docstring names the log entry. -/

open Sys2Proof Sys2Proof.Machine

/-! ## Encoding -/

/-- R41, R43: the decoder accepts a word as a command exactly when it is that command's encoding, so every other one of
the 2^32 words is rejected, and decoding an encoded command gives it back. -/
def Obligations.DecodeAcceptsExactlyTheEncodedWords : Prop :=
  ∀ (w : Word) (i : Instr), decode w = .ok i ↔ w = encode i

/-- R43: the twenty rows of the opcode map, each word written out, decode to the commands they stand for. -/
def Obligations.OpcodeMapWordsDecode : Prop :=
  decode 0x00000000#32 = .ok .nop ∧ decode 0x00000001#32 = .ok .prngSeed ∧ decode 0x00000002#32 = .ok .prngNext ∧
  decode 0x00000003#32 = .ok .keyChecksum ∧ decode 0x00000010#32 = .ok .subOpen ∧
  decode 0x00000011#32 = .ok .subRead ∧ decode 0x00000020#32 = .ok .ciphInit ∧ decode 0x00000021#32 = .ok .ciphDec ∧
  decode 0x00000022#32 = .ok .ciphEnc ∧ decode 0x00000030#32 = .ok .rdOpen ∧ decode 0x00000031#32 = .ok .rdHasnext ∧
  decode 0x00000032#32 = .ok .rdEntry ∧ decode 0x00000033#32 = .ok .rdPull ∧ decode 0x00000034#32 = .ok .rdPut ∧
  decode 0x00000035#32 = .ok .rdFinish ∧ decode 0x00000040#32 = .ok .wrOpen ∧ decode 0x00000041#32 = .ok .wrBegin ∧
  decode 0x00000042#32 = .ok .wrPush ∧ decode 0x00000043#32 = .ok .wrEnd ∧ decode 0x000000FF#32 = .ok .coreReset

/-- R44, R45: a word with a bit of `RSV` set, and a word with an unassigned opcode, raise `ILLEGAL_COMMAND` (code 7) and
run nothing. -/
def Obligations.IllegalWordRaisesAndRunsNothing : Prop :=
  ∀ (s : State) (w : Word) (rest : List HostEvent),
    (w.toNat / 256 ≠ 0 ∨ 0x04 ≤ w.toNat % 256 ∧ w.toNat % 256 ≤ 0x0F ∨ 0x12 ≤ w.toNat % 256 ∧ w.toNat % 256 ≤ 0x1F ∨
      0x23 ≤ w.toNat % 256 ∧ w.toNat % 256 ≤ 0x2F ∨ 0x36 ≤ w.toNat % 256 ∧ w.toNat % 256 ≤ 0x3F ∨
      0x44 ≤ w.toNat % 256 ∧ w.toNat % 256 ≤ 0xFE) →
    step { s with events := .memWrite 0x000 4 w :: rest } =
      .next (State.errored { s with events := rest } .illegalCommand 0x00000080#32)

/-- R42, R116: when the next event writes a word to `CMD` that decodes to a command, the step is that command's meaning
on the state with the event taken. -/
def Obligations.StepRunsTheDecodedCommand : Prop :=
  ∀ (s : State) (w : Word) (i : Instr) (rest : List HostEvent),
    s.events = .memWrite 0x000 4 w :: rest → decode w = .ok i → step s = exec i { s with events := rest }

/-- R48, R101: the legality table. A command outside its `SEQ` values raises `UNSUPPORTED_OPERATION` (code 5) and changes
nothing else; inside them it does not end with that error, but for the two cipher byte commands, which raise it against
the stream's direction too (R76, R77). -/
def Obligations.CommandOutsideItsSeqIsRefused : Prop :=
  ∀ (i : Instr) (s : State),
    let isLegal : Prop :=
      i ∈ [.nop, .coreReset, .prngSeed, .prngNext, .keyChecksum, .subOpen, .subRead, .ciphInit, .ciphDec, .ciphEnc] ∨
      i ∈ [.rdOpen, .wrOpen] ∧ s.seq = .idle ∨
      i = .rdHasnext ∧ s.seq ∈ [.rHdr, .rEntries, .rInEntry, .rExhausted] ∨
      i = .rdEntry ∧ s.seq ∈ [.rHdr, .rEntries] ∨
      i ∈ [.rdPull, .rdPut, .rdFinish] ∧ s.seq = .rInEntry ∨
      i = .wrBegin ∧ s.seq ∈ [.wPending, .wEntries] ∨
      i ∈ [.wrPush, .wrEnd] ∧ s.seq = .wInEntry
    (¬isLegal → exec i s = .next (s.errored .unsupportedOperation 0x00000020#32)) ∧
    (isLegal → i ≠ .ciphDec → i ≠ .ciphEnc → ∀ t, exec i s = .next t → t.regs.err ≠ some .unsupportedOperation)

/-! ## System and PRNG commands -/

/-- R97: `NOP` changes nothing but `STATUS.ERR`, which it clears. -/
def Obligations.NopOnlyClearsTheError : Prop := ∀ s : State, exec .nop s = .next s.accepted

/-- R24, R98: `CORE_RESET` completes in every state and leaves every element at its "after `CORE_RESET`" value; `ARG0`,
`ARG1`, `CONFIG`, `ERR_STICKY` and the ports are kept. The sixteen PRNG words may hold anything afterwards: the statement
says nothing of them, nor of the model's count of free words (log 2). -/
def Obligations.CoreResetRestoresResetValues : Prop :=
  ∀ s : State, ∃ (w : Vector Word 16) (n : Nat),
    exec .coreReset s = .next { s with
      regs := { s.regs with res0 := 0x00000000#32, res1 := 0x00000000#32, err := none }
      seq := .idle
      prng := { w := w, idx := 0x0#4, valid := false }
      cipher := { ck := 0x00000000#32, ckSeeded := false, pos := 0x0#64, dir := 0#1 }
      sub := { n := 0x00000000#32, cnt := 0x00000000#32 }
      hdr := { hdrChk := 0x00000000#32, hdrSeed := 0x00000000#32, keyR := 0x00000000#32, seedR := 0x00000000#32,
               hdrDone := false }
      entry := { csize := 0x00000000#32, dsize := 0x00000000#32, chk := 0x00000000#32, copied := 0x00000000#32,
                 mask1 := 0x00000000#32, mask2 := 0x00000000#32, clen := 0x0#64, bufLatched := false }
      scratch := []
      freeCount := n }

/-- R57, R60: `PRNG_SEED` in every state writes the sixteen words by the seeding recurrence, `IDX` and `PRNG_VALID`, and
nothing else but `STATUS.ERR`. The state it leaves the PRNG in is the one the model calls `prngSeed`. -/
def Obligations.PrngSeedFollowsTheRecurrence : Prop :=
  ∀ s : State, ∃ p : Prng,
    exec .prngSeed s = .next { s.accepted with prng := p } ∧ p = prngSeed s.regs.arg0 ∧
    p.word 0#4 = s.regs.arg0 ∧
    (∀ k : Nat, 1 ≤ k → k ≤ 15 →
      let t := p.word (BitVec.ofNat 4 (k - 1)) ^^^ (p.word (BitVec.ofNat 4 (k - 1)) >>> 30)
      p.word (BitVec.ofNat 4 k) = BitVec.ofNat 32 k + 0x6C078965#32 * t) ∧
    p.idx = 0#4 ∧ p.valid = true

/-- R58, R61: `PRNG_NEXT` on a seeded PRNG completes with the draw of R58 in `RES0`: it writes exactly the two words
`W[j]` and `W[(j + 15) mod 16]`, decrements `IDX` modulo 16 and returns the new `W[IDX]`. Unseeded, it raises `UNSEEDED`
and changes nothing else. `W k` below is `W[k mod 16]` before the draw. -/
def Obligations.PrngNextMakesOneDraw : Prop :=
  ∀ s : State,
    (s.prng.valid = false → exec .prngNext s = .next (s.errored .unseeded 0x00000100#32)) ∧
    (s.prng.valid = true →
      let j := s.prng.idx.toNat
      let W := fun k : Nat => s.prng.word (BitVec.ofNat 4 (k % 16))
      let c := W j ^^^ (W j <<< 16) ^^^ W (j + 13) ^^^ (W (j + 13) <<< 15)
      let b := W (j + 9) ^^^ (W (j + 9) >>> 11)
      let d := (b ^^^ c) ^^^ (((b ^^^ c) <<< 5) &&& 0xDA442D24#32)
      let a := W (j + 15)
      let r := a ^^^ (a <<< 2) ^^^ (b <<< 28) ^^^ c ^^^ (c <<< 18) ^^^ d
      ∃ p : Prng,
        exec .prngNext s = .next { s.answered r 0x00000000#32 with prng := p } ∧ (r, p) = prngNext s.prng ∧
        p.word (BitVec.ofNat 4 j) = b ^^^ c ∧ p.word (BitVec.ofNat 4 ((j + 15) % 16)) = r ∧
        (∀ k : Nat, k < 16 → k ≠ j → k ≠ (j + 15) % 16 → p.word (BitVec.ofNat 4 k) = W k) ∧
        p.idx = BitVec.ofNat 4 ((j + 15) % 16) ∧ p.valid = true)

/-- R59, R62: `KEY_CHECKSUM` on a seeded PRNG makes `(key mod 31) + 5` draws and answers their XOR over 0x2DF4A1CD, and
changes nothing else; unseeded, it raises `UNSEEDED`. -/
def Obligations.KeyChecksumXorsItsDraws : Prop :=
  ∀ s : State,
    (s.prng.valid = false → exec .keyChecksum s = .next (s.errored .unseeded 0x00000100#32)) ∧
    (s.prng.valid = true →
      exec .keyChecksum s = .next { s.answered (xorOfDraws (s.regs.arg0.toNat % 31 + 5) s.prng) 0x00000000#32 with
        prng := prngAfter (s.regs.arg0.toNat % 31 + 5) s.prng })

/-! ## Sub-range commands -/

/-- R64, R66: `SUB_OPEN` sets the budget and clears the count, and changes nothing else but `STATUS.ERR`. -/
def Obligations.SubOpenSetsTheBudget : Prop :=
  ∀ s : State, exec .subOpen s = .next { s.accepted with sub := { n := s.regs.arg0, cnt := 0x00000000#32 } }

/-- R65, R67: `SUB_READ` answers `EOD` at the end of the budget or of `IN`, consuming nothing; else it answers the next
byte of `IN` as it stands and counts it. -/
def Obligations.SubReadReturnsNextByteOrEod : Prop :=
  ∀ s : State,
    (s.sub.cnt = s.sub.n ∨ s.ports.input.length ≤ s.ports.inPos →
      exec .subRead s = .next (s.answered 0x00000000#32 0x00000001#32)) ∧
    (∀ b : Byte, s.sub.cnt ≠ s.sub.n → s.ports.input[s.ports.inPos]? = some b →
      exec .subRead s = .next { s.answered (b.setWidth 32) 0x00000000#32 with
        sub := { s.sub with cnt := s.sub.cnt + 1 }
        ports := { s.ports with inPos := s.ports.inPos + 1 } })

/-! ## Cipher commands -/

/-- R69, R75: `CIPH_INIT` starts a stream in the direction of `ARG0[0]`, drawing nothing. -/
def Obligations.CiphInitStartsAStream : Prop :=
  ∀ s : State, exec .ciphInit s = .next { s.accepted with
    cipher := { ck := 0x00000000#32, ckSeeded := false, pos := 0x0#64,
                dir := if s.regs.arg0.getLsbD 0 then 1#1 else 0#1 } }

/-- R70 to R73, R76: `CIPH_DEC` on a decrypt stream of a seeded PRNG answers `ARG0[7:0]` XOR the keystream byte and folds
that plain byte into `CK` by a right rotation of `(POS mod 7) + 1`; its errors come in the order direction, seed; at
`POS` = 2^64 - 1 it has no step. -/
def Obligations.CiphDecDecryptsOneByte : Prop :=
  ∀ s : State,
    (s.cipher.dir ≠ 0#1 → exec .ciphDec s = .next (s.errored .unsupportedOperation 0x00000020#32)) ∧
    (s.cipher.dir = 0#1 → s.prng.valid = false → exec .ciphDec s = .next (s.errored .unseeded 0x00000100#32)) ∧
    (s.cipher.dir = 0#1 → s.prng.valid = true → s.cipher.pos.toNat = 2 ^ 64 - 1 →
      exec .ciphDec s = .fault .posExhausted) ∧
    (s.cipher.dir = 0#1 → s.prng.valid = true → s.cipher.pos.toNat < 2 ^ 64 - 1 →
      let plain : Byte := s.regs.arg0.setWidth 8 ^^^ s.keyByte
      exec .ciphDec s = .next ((s.answered (plain.setWidth 32) 0x00000000#32).afterByte plain))

/-- R70 to R72, R74, R77: `CIPH_ENC` on an encrypt stream of a seeded PRNG answers `ARG0[7:0]` XOR the keystream byte and
folds `ARG0[7:0]` into `CK`; its errors come in the order direction, seed; at `POS` = 2^64 - 1 it has no step. -/
def Obligations.CiphEncEncryptsOneByte : Prop :=
  ∀ s : State,
    (s.cipher.dir ≠ 1#1 → exec .ciphEnc s = .next (s.errored .unsupportedOperation 0x00000020#32)) ∧
    (s.cipher.dir = 1#1 → s.prng.valid = false → exec .ciphEnc s = .next (s.errored .unseeded 0x00000100#32)) ∧
    (s.cipher.dir = 1#1 → s.prng.valid = true → s.cipher.pos.toNat = 2 ^ 64 - 1 →
      exec .ciphEnc s = .fault .posExhausted) ∧
    (s.cipher.dir = 1#1 → s.prng.valid = true → s.cipher.pos.toNat < 2 ^ 64 - 1 →
      let plain : Byte := s.regs.arg0.setWidth 8
      exec .ciphEnc s =
        .next ((s.answered ((plain ^^^ s.keyByte).setWidth 32) 0x00000000#32).afterByte plain))

/-! ## Reader commands -/

/-- R79, R103: `RD_OPEN` in `IDLE`. With fewer than 8 bytes left it consumes them and raises `TRUNCATED` (code 6) with
no seeding; else it reads the big-endian checksum and seed, seeds with `seed ^ key`, makes the key-checksum draws and
answers both checksums, going to `R_HDR`, or to `FAULT` with `KEY_CHECKSUM` (code 1) when they differ and
`SKIP_KEYCHK` = 0. Outside `IDLE` it is refused. -/
def Obligations.RdOpenReadsTheGlobalHeader : Prop :=
  ∀ s : State,
    (s.seq ≠ .idle → exec .rdOpen s = .next (s.errored .unsupportedOperation 0x00000020#32)) ∧
    (s.seq = .idle → s.ports.input.length < s.ports.inPos + 8 →
      exec .rdOpen s = .next (State.errored { s with
        ports := { s.ports with inPos := max s.ports.inPos s.ports.input.length }
        seq := .fault } .truncated 0x00000040#32)) ∧
    (∀ (b0 b1 b2 b3 b4 b5 b6 b7 : Byte) (tail : List Byte), s.seq = .idle →
      s.ports.input.drop s.ports.inPos = b0 :: b1 :: b2 :: b3 :: b4 :: b5 :: b6 :: b7 :: tail →
      let stored : Word := b0 ++ b1 ++ b2 ++ b3
      let seed : Word := b4 ++ b5 ++ b6 ++ b7
      let key := s.regs.arg0
      let n := key.toNat % 31 + 5
      let kc := xorOfDraws n (prngSeed (seed ^^^ key))
      let t := { s with
        ports := { s.ports with inPos := s.ports.inPos + 8 }
        hdr := { s.hdr with hdrChk := stored, hdrSeed := seed, keyR := key, seedR := seed }
        prng := prngAfter n (prngSeed (seed ^^^ key)) }
      (kc = stored ∨ s.regs.config.getLsbD 0 = true →
        exec .rdOpen s = .next { t.answered kc stored with seq := .rHdr }) ∧
      (kc ≠ stored ∧ s.regs.config.getLsbD 0 = false →
        exec .rdOpen s =
          .next { (t.answered kc stored).errored .keyChecksum 0x00000002#32 with seq := .fault }))

/-- R80: `RD_HASNEXT` answers whether unread input is left, consuming none of it; answering 0 between entries moves to
`R_EXHAUSTED`. Outside its `SEQ` values it is refused. -/
def Obligations.RdHasnextReportsUnreadInput : Prop :=
  ∀ s : State,
    (s.seq ∉ [.rHdr, .rEntries, .rInEntry, .rExhausted] →
      exec .rdHasnext s = .next (s.errored .unsupportedOperation 0x00000020#32)) ∧
    (s.seq ∈ [.rHdr, .rEntries, .rInEntry, .rExhausted] → s.ports.inPos < s.ports.input.length →
      exec .rdHasnext s = .next (s.answered 0x00000001#32 0x00000000#32)) ∧
    (s.seq ∈ [.rHdr, .rEntries] → s.ports.input.length ≤ s.ports.inPos →
      exec .rdHasnext s = .next { s.answered 0x00000000#32 0x00000000#32 with seq := .rExhausted }) ∧
    (s.seq ∈ [.rInEntry, .rExhausted] → s.ports.input.length ≤ s.ports.inPos →
      exec .rdHasnext s = .next (s.answered 0x00000000#32 0x00000000#32))

/-- R81, R103: `RD_ENTRY` between entries. With fewer than 12 bytes left it consumes them and raises `TRUNCATED` with no
draw; else it reads the three big-endian fields, unmasks the sizes with two draws in order, and opens the sub-range and a
decrypt stream with an empty scratch buffer, latching `BUF_COMMIT`. Elsewhere it is refused. -/
def Obligations.RdEntryReadsTheEntryHeader : Prop :=
  ∀ s : State,
    (s.seq ∉ [.rHdr, .rEntries] → exec .rdEntry s = .next (s.errored .unsupportedOperation 0x00000020#32)) ∧
    (s.seq ∈ [.rHdr, .rEntries] → s.ports.input.length < s.ports.inPos + 12 →
      exec .rdEntry s = .next (State.errored { s with
        ports := { s.ports with inPos := max s.ports.inPos s.ports.input.length }
        seq := .fault } .truncated 0x00000040#32)) ∧
    (∀ (b0 b1 b2 b3 b4 b5 b6 b7 b8 b9 b10 b11 : Byte) (tail : List Byte), s.seq ∈ [.rHdr, .rEntries] →
      s.ports.input.drop s.ports.inPos =
        b0 :: b1 :: b2 :: b3 :: b4 :: b5 :: b6 :: b7 :: b8 :: b9 :: b10 :: b11 :: tail →
      let m1 := (prngNext s.prng).1
      let m2 := (prngNext (prngNext s.prng).2).1
      let csize : Word := (b0 ++ b1 ++ b2 ++ b3) ^^^ m1
      let dsize : Word := (b4 ++ b5 ++ b6 ++ b7) ^^^ m2
      exec .rdEntry s = .next { s.answered csize dsize with
        ports := { s.ports with inPos := s.ports.inPos + 12 }
        prng := prngAfter 2 s.prng
        entry := { csize := csize, dsize := dsize, chk := b8 ++ b9 ++ b10 ++ b11, copied := 0x00000000#32,
                   mask1 := m1, mask2 := m2, clen := s.entry.clen, bufLatched := s.regs.config.getLsbD 3 }
        sub := { n := csize, cnt := 0x00000000#32 }
        cipher := { ck := 0x00000000#32, ckSeeded := false, pos := 0x0#64, dir := 0#1 }
        scratch := []
        seq := .rInEntry })

/-- R65, R82: `RD_PULL` in an entry answers `EOD` at the end of the sub-range or of `IN`, drawing nothing; else it
decrypts the next byte of `IN`, whatever `DIR` holds; at `POS` = 2^64 - 1 that byte has no step. Outside an entry it is
refused. -/
def Obligations.RdPullDecryptsTheNextByte : Prop :=
  ∀ s : State,
    (s.seq ≠ .rInEntry → exec .rdPull s = .next (s.errored .unsupportedOperation 0x00000020#32)) ∧
    (s.seq = .rInEntry → (s.sub.cnt = s.sub.n ∨ s.ports.input.length ≤ s.ports.inPos) →
      exec .rdPull s = .next (s.answered 0x00000000#32 0x00000001#32)) ∧
    (∀ b : Byte, s.seq = .rInEntry → s.sub.cnt ≠ s.sub.n → s.ports.input[s.ports.inPos]? = some b →
      (s.cipher.pos.toNat = 2 ^ 64 - 1 → exec .rdPull s = .fault .posExhausted) ∧
      (s.cipher.pos.toNat < 2 ^ 64 - 1 →
        let plain : Byte := b ^^^ s.keyByte
        exec .rdPull s = .next { (s.answered (plain.setWidth 32) 0x00000000#32).afterByte plain with
          sub := { s.sub with cnt := s.sub.cnt + 1 }
          ports := { s.ports with inPos := s.ports.inPos + 1 } }))

/-- R22, R83: `RD_PUT` in an entry appends `ARG0[7:0]` to `OUT`, or to `SCRATCH` when the entry is buffered, and counts
it; a byte beyond `E_DSIZE` is dropped; a buffered byte has no step when `SCRATCH` is full. Outside an entry it is
refused. -/
def Obligations.RdPutCopiesAtMostTheDeclaredSize : Prop :=
  ∀ s : State,
    let d : Byte := s.regs.arg0.setWidth 8
    (s.seq ≠ .rInEntry → exec .rdPut s = .next (s.errored .unsupportedOperation 0x00000020#32)) ∧
    (s.seq = .rInEntry → s.entry.dsize.toNat ≤ s.entry.copied.toNat → exec .rdPut s = .next s.accepted) ∧
    (s.seq = .rInEntry → s.entry.copied.toNat < s.entry.dsize.toNat → s.entry.bufLatched = false →
      exec .rdPut s = .next { s.accepted with
        ports := { s.ports with out := s.ports.out ++ [d] }
        entry := { s.entry with copied := s.entry.copied + 1 } }) ∧
    (s.seq = .rInEntry → s.entry.copied.toNat < s.entry.dsize.toNat → s.entry.bufLatched = true →
      (∀ cap, s.scratchCap = some cap → s.scratch.length < cap) →
      exec .rdPut s = .next { s.accepted with
        scratch := s.scratch ++ [d]
        entry := { s.entry with copied := s.entry.copied + 1 } }) ∧
    (∀ cap, s.seq = .rInEntry → s.entry.copied.toNat < s.entry.dsize.toNat → s.entry.bufLatched = true →
      s.scratchCap = some cap → cap ≤ s.scratch.length → exec .rdPut s = .fault .scratchFull)

/-- R84, R102, R104 item 6: `RD_FINISH` in an entry answers the copied count and `CK`, empties `SCRATCH` and goes to
`R_ENTRIES`; the length check comes before the checksum check, each unless its toggle skips it; the buffered bytes reach
`OUT` only when neither fails. Outside an entry it is refused. -/
def Obligations.RdFinishChecksAndCommits : Prop :=
  ∀ s : State,
    let lengthBad := s.regs.config.getLsbD 2 = false ∧ (s.entry.copied ≠ s.entry.dsize ∨ s.sub.cnt ≠ s.entry.csize)
    let checksumBad := s.regs.config.getLsbD 1 = false ∧ s.cipher.ck ≠ s.entry.chk
    let t := { s.answered s.entry.copied s.cipher.ck with scratch := [], seq := .rEntries }
    (s.seq ≠ .rInEntry → exec .rdFinish s = .next (s.errored .unsupportedOperation 0x00000020#32)) ∧
    (s.seq = .rInEntry → lengthBad → exec .rdFinish s = .next (t.errored .sizeMismatch 0x00000008#32)) ∧
    (s.seq = .rInEntry → ¬lengthBad → checksumBad →
      exec .rdFinish s = .next (t.errored .entryChecksum 0x00000004#32)) ∧
    (s.seq = .rInEntry → ¬lengthBad → ¬checksumBad →
      exec .rdFinish s = .next { t with
        ports := { s.ports with out := s.ports.out ++ if s.entry.bufLatched then s.scratch else [] } })

/-! ## Writer commands -/

/-- R90, R95: `WR_OPEN` in `IDLE` keeps the key and the seed, seeds with `seed ^ key` and goes to `W_PENDING`; it draws
nothing and writes no byte. Outside `IDLE` it is refused. -/
def Obligations.WrOpenSeedsAndEmitsNothing : Prop :=
  ∀ s : State,
    (s.seq ≠ .idle → exec .wrOpen s = .next (s.errored .unsupportedOperation 0x00000020#32)) ∧
    (s.seq = .idle → exec .wrOpen s = .next { s.accepted with
      hdr := { s.hdr with keyR := s.regs.arg0, seedR := s.regs.arg1, hdrDone := false }
      prng := prngSeed (s.regs.arg1 ^^^ s.regs.arg0)
      seq := .wPending })

/-- R50, R91: `WR_BEGIN` draws the two masks in order and starts an encrypt stream with an empty scratch buffer; if the
global header is not out yet it first makes the key-checksum draws and writes the header's 8 big-endian bytes. Outside
`W_PENDING` and `W_ENTRIES` it is refused. -/
def Obligations.WrBeginEmitsHeaderOnceAndDrawsMasks : Prop :=
  ∀ s : State,
    (s.seq ∉ [.wPending, .wEntries] → exec .wrBegin s = .next (s.errored .unsupportedOperation 0x00000020#32)) ∧
    (s.seq ∈ [.wPending, .wEntries] →
      let n := if s.hdr.hdrDone then 0 else s.hdr.keyR.toNat % 31 + 5
      let p := prngAfter n s.prng
      let kc := xorOfDraws n s.prng
      let m1 := (prngNext p).1
      let m2 := (prngNext (prngNext p).2).1
      let begun := fun t : State => { t.answered m1 m2 with
        prng := prngAfter (n + 2) s.prng
        entry := { s.entry with mask1 := m1, mask2 := m2, clen := 0x0#64 }
        cipher := { ck := 0x00000000#32, ckSeeded := false, pos := 0x0#64, dir := 1#1 }
        scratch := []
        seq := .wInEntry }
      (s.hdr.hdrDone = true → exec .wrBegin s = .next (begun s)) ∧
      (s.hdr.hdrDone = false → ∃ b0 b1 b2 b3 b4 b5 b6 b7 : Byte,
        b0 ++ b1 ++ b2 ++ b3 = kc ∧ b4 ++ b5 ++ b6 ++ b7 = s.hdr.seedR ∧
        exec .wrBegin s = .next (begun { s with
          hdr := { s.hdr with hdrChk := kc, hdrSeed := s.hdr.seedR, hdrDone := true }
          ports := { s.ports with out := s.ports.out ++ [b0, b1, b2, b3, b4, b5, b6, b7] } })))

/-- R74, R92: `WR_PUSH` in an entry encrypts `ARG0[7:0]` into `SCRATCH`, counts it and answers the cipher byte, whatever
`DIR` holds; it has no step when `SCRATCH` is full, at `POS` = 2^64 - 1 or at `CLEN` = 2^64 - 1 (which fault names it
is left open: log 9). Outside an entry it is refused. -/
def Obligations.WrPushEncryptsIntoScratch : Prop :=
  ∀ s : State,
    let plain : Byte := s.regs.arg0.setWidth 8
    let cipherByte := plain ^^^ s.keyByte
    (s.seq ≠ .wInEntry → exec .wrPush s = .next (s.errored .unsupportedOperation 0x00000020#32)) ∧
    (s.seq = .wInEntry → s.cipher.pos.toNat < 2 ^ 64 - 1 → s.entry.clen.toNat < 2 ^ 64 - 1 →
      (∀ cap, s.scratchCap = some cap → s.scratch.length < cap) →
      exec .wrPush s = .next { (s.answered (cipherByte.setWidth 32) 0x00000000#32).afterByte plain with
        scratch := s.scratch ++ [cipherByte]
        entry := { s.entry with clen := s.entry.clen + 1 } }) ∧
    (s.seq = .wInEntry → (s.cipher.pos.toNat = 2 ^ 64 - 1 ∨ s.entry.clen.toNat = 2 ^ 64 - 1 ∨
        ∃ cap, s.scratchCap = some cap ∧ cap ≤ s.scratch.length) →
      ∃ f : Fault, f ∈ [.posExhausted, .scratchFull, .clenExhausted] ∧ exec .wrPush s = .fault f)

/-- R51, R93, R103: `WR_END` in an entry. With `CLEN` or the size `ARG1 * 2^32 + ARG0` above 0xFFFFFFFF it drops the
entry, goes to `FAULT` and raises `SIZE_OVERFLOW` (code 4); else it writes the two masked sizes and the checksum
big-endian, then `SCRATCH`, and goes to `W_ENTRIES`. Outside an entry it is refused. -/
def Obligations.WrEndEmitsTheEntry : Prop :=
  ∀ s : State,
    let ds := s.regs.arg1.toNat * 2 ^ 32 + s.regs.arg0.toNat
    (s.seq ≠ .wInEntry → exec .wrEnd s = .next (s.errored .unsupportedOperation 0x00000020#32)) ∧
    (s.seq = .wInEntry → (0xFFFFFFFF < s.entry.clen.toNat ∨ 0xFFFFFFFF < ds) →
      exec .wrEnd s =
        .next (State.errored { s with scratch := [], seq := .fault } .sizeOverflow 0x00000010#32)) ∧
    (s.seq = .wInEntry → s.entry.clen.toNat ≤ 0xFFFFFFFF → ds ≤ 0xFFFFFFFF →
      ∃ b0 b1 b2 b3 b4 b5 b6 b7 b8 b9 b10 b11 : Byte,
        b0 ++ b1 ++ b2 ++ b3 = BitVec.ofNat 32 s.entry.clen.toNat ^^^ s.entry.mask1 ∧
        b4 ++ b5 ++ b6 ++ b7 = BitVec.ofNat 32 ds ^^^ s.entry.mask2 ∧
        b8 ++ b9 ++ b10 ++ b11 = s.cipher.ck ∧
        exec .wrEnd s = .next { s.answered (BitVec.ofNat 32 s.entry.clen.toNat) s.cipher.ck with
          entry := { s.entry with
            csize := BitVec.ofNat 32 s.entry.clen.toNat, dsize := BitVec.ofNat 32 ds, chk := s.cipher.ck }
          ports := { s.ports with
            out := s.ports.out ++ [b0, b1, b2, b3, b4, b5, b6, b7, b8, b9, b10, b11] ++ s.scratch }
          scratch := []
          seq := .wEntries })

/-! ## The host port -/

/-- R27, R28, R34: a 32-bit `MemRead` at an aligned offset of the window returns the register the map has there, 0 at
`CMD` and at a reserved offset, and changes nothing of the core. While `PRNG_VALID` = 0 a `PRNG_W<k>` read returns some
word, of which nothing is said (log 2). -/
def Obligations.MemReadReturnsTheMappedRegister : Prop :=
  ∀ (s : State) (rest : List HostEvent),
    let read := fun addr : Nat => step { s with events := .memRead addr 4 :: rest }
    let returns := fun v : Word => { s with events := rest, hostReads := s.hostReads ++ [v] }
    let pos := s.cipher.pos.toNat
    let clen := s.entry.clen.toNat
    let table : List (Nat × Word) :=
      [(0x000, 0x00000000#32), (0x004, s.regs.arg0), (0x008, s.regs.arg1), (0x00C, s.regs.config &&& 0x0000000F#32),
       (0x010, s.regs.res0), (0x014, s.regs.res1), (0x018, statusWord s),
       (0x01C, s.regs.errSticky &&& 0x000001FE#32), (0x020, BitVec.ofNat 32 s.prng.idx.toNat), (0x024, s.cipher.ck),
       (0x028, BitVec.ofNat 32 (pos % 2 ^ 32)), (0x02C, BitVec.ofNat 32 (pos / 2 ^ 32)), (0x030, s.sub.n),
       (0x034, s.sub.cnt), (0x038, s.entry.csize), (0x03C, s.entry.dsize), (0x040, s.entry.chk),
       (0x044, s.entry.copied), (0x048, s.entry.mask1), (0x04C, s.entry.mask2),
       (0x050, BitVec.ofNat 32 (clen % 2 ^ 32)), (0x054, BitVec.ofNat 32 (clen / 2 ^ 32)), (0x058, s.hdr.hdrChk),
       (0x05C, s.hdr.hdrSeed), (0x060, s.hdr.keyR), (0x064, s.hdr.seedR),
       (0x068, BitVec.ofNat 32 (s.scratch.length % 2 ^ 32)),
       (0x06C, BitVec.ofNat 32 (s.scratch.length / 2 ^ 32 % 2 ^ 32))]
    (∀ e ∈ table, read e.1 = .next (returns e.2)) ∧
    (∀ k : Nat, k < 16 → s.prng.valid = true →
      read (0x080 + 4 * k) = .next (returns (s.prng.word (BitVec.ofNat 4 k)))) ∧
    (∀ k : Nat, k < 16 → s.prng.valid = false →
      ∃ (v : Word) (n : Nat), read (0x080 + 4 * k) = .next { returns v with freeCount := n }) ∧
    (∀ addr : Nat, addr % 4 = 0 → (0x070 ≤ addr ∧ addr < 0x080 ∨ 0x0C0 ≤ addr ∧ addr < 0x1000) →
      read addr = .next (returns 0x00000000#32))

/-- R28: a 32-bit `MemWrite` to `ARG0`, `ARG1` or `CONFIG` changes only that register, of `CONFIG` only bits [3:0], and
runs no command; at every other aligned offset of the window but `CMD` it is ignored. -/
def Obligations.MemWriteChangesOnlyItsRegister : Prop :=
  ∀ (s : State) (v : Word) (rest : List HostEvent),
    let write := fun addr : Nat => step { s with events := .memWrite addr 4 v :: rest }
    write 0x004 = .next { s with events := rest, regs := { s.regs with arg0 := v } } ∧
    write 0x008 = .next { s with events := rest, regs := { s.regs with arg1 := v } } ∧
    write 0x00C = .next { s with events := rest, regs := { s.regs with config := v &&& 0x0000000F#32 } } ∧
    (∀ addr : Nat, addr % 4 = 0 → 0x010 ≤ addr → addr < 0x1000 → write addr = .next { s with events := rest })

/-- R29: a host access of another width than 4 bytes, at an offset that is not a multiple of 4, or outside the 4096-byte
window has no step (which of the three faults names it is left open: log 9). -/
def Obligations.IrregularAccessHasNoStep : Prop :=
  ∀ (s : State) (addr nbytes : Nat) (v : Word) (rest : List HostEvent),
    nbytes ≠ 4 ∨ addr % 4 ≠ 0 ∨ 0x1000 ≤ addr →
    ∃ f : Fault, f ∈ [.accessWidth, .accessMisaligned, .accessOutsideWindow] ∧
      step { s with events := .memRead addr nbytes :: rest } = .fault f ∧
      step { s with events := .memWrite addr nbytes v :: rest } = .fault f

/-- R14: the fields of `STATUS`, with the codes of `SEQ` from R13, and its reserved bits; it reads as zero at reset; the
host reads it at offset 0x018 and its writes there are ignored. -/
def Obligations.StatusPacksItsFields : Prop :=
  statusWord State.reset = 0x00000000#32 ∧
  ∀ (s : State) (v : Word) (rest : List HostEvent),
    step { s with events := .memRead 0x018 4 :: rest } =
      .next { s with events := rest, hostReads := s.hostReads ++ [statusWord s] } ∧
    step { s with events := .memWrite 0x018 4 v :: rest } = .next { s with events := rest } ∧
    (statusWord s).extractLsb' 0 8 = errCode s.regs.err ∧
    (statusWord s).extractLsb' 8 4 = s.seq.code ∧
    (statusWord s).getLsbD 12 = s.prng.valid ∧
    (statusWord s).getLsbD 13 = s.cipher.ckSeeded ∧
    (statusWord s).getLsbD 14 = decide (s.cipher.dir = 1#1) ∧
    (statusWord s).getLsbD 15 = s.hdr.hdrDone ∧
    (statusWord s).getLsbD 16 = s.entry.bufLatched ∧
    (statusWord s).toNat < 2 ^ 17 ∧
    [Seq.idle, .rHdr, .rEntries, .rInEntry, .rExhausted, .wPending, .wEntries, .wInEntry, .fault].map Seq.code =
      [0x0#4, 0x1#4, 0x2#4, 0x3#4, 0x4#4, 0x8#4, 0x9#4, 0xA#4, 0xF#4]

/-- R105, R112: with no event waiting the machine holds its state. -/
def Obligations.NothingChangesBetweenCommands : Prop := ∀ s : State, s.events = [] → step s = .next s

/-! ## Errors -/

/-- R99: the code of each error, and, for a word written to `CMD`, which command may end with which error, under which
toggle or condition; a word that is no command ends with `ILLEGAL_COMMAND`, and nothing else does. -/
def Obligations.ErrorsComeFromTheirCommands : Prop :=
  [Error.keyChecksum, .entryChecksum, .sizeMismatch, .sizeOverflow, .unsupportedOperation, .truncated, .illegalCommand,
    .unseeded].map (fun e => errCode (some e)) = [0x01#8, 0x02#8, 0x03#8, 0x04#8, 0x05#8, 0x06#8, 0x07#8, 0x08#8] ∧
  errCode none = 0x00#8 ∧
  ∀ (s t : State) (w : Word) (rest : List HostEvent),
    step { s with events := .memWrite 0x000 4 w :: rest } = .next t →
    ((∀ i : Instr, w ≠ encode i) → t.regs.err = some .illegalCommand) ∧
    ∀ (i : Instr) (e : Error), w = encode i → t.regs.err = some e →
      e = .unsupportedOperation ∧
        (legal i s.seq = false ∨ i = .ciphDec ∧ s.cipher.dir = 1#1 ∨ i = .ciphEnc ∧ s.cipher.dir = 0#1) ∨
      e = .keyChecksum ∧ i = .rdOpen ∧ s.regs.config.getLsbD 0 = false ∨
      e = .entryChecksum ∧ i = .rdFinish ∧ s.regs.config.getLsbD 1 = false ∨
      e = .sizeMismatch ∧ i = .rdFinish ∧ s.regs.config.getLsbD 2 = false ∨
      e = .sizeOverflow ∧ i = .wrEnd ∨
      e = .truncated ∧ i ∈ [.rdOpen, .rdEntry] ∨
      e = .unseeded ∧ i ∈ [.prngNext, .keyChecksum, .ciphDec, .ciphEnc] ∧ s.prng.valid = false

/-- R101: when a word written to `CMD` ends with a command-level error, every element but `STATUS.ERR` and `ERR_STICKY`
holds the value it held before. -/
def Obligations.CommandLevelErrorChangesNothingElse : Prop :=
  ∀ (s t : State) (w : Word) (rest : List HostEvent),
    step { s with events := .memWrite 0x000 4 w :: rest } = .next t →
    t.regs.err ∈ [some .illegalCommand, some .unsupportedOperation, some .unseeded] →
    t = { s with events := rest, regs := { s.regs with err := t.regs.err, errSticky := t.regs.errSticky } }

/-- R102: an entry-level error is raised by `RD_FINISH`, with the results written, `SCRATCH` emptied without a commit, the
PRNG kept and `SEQ` at `R_ENTRIES`, so that the next `RD_HASNEXT` and `RD_ENTRY` are legal. -/
def Obligations.EntryLevelErrorEndsTheEntryOnly : Prop :=
  ∀ (i : Instr) (s t : State), exec i s = .next t →
    t.regs.err ∈ [some .sizeMismatch, some .entryChecksum] →
    i = .rdFinish ∧ t.seq = .rEntries ∧ t.scratch = [] ∧ t.ports = s.ports ∧ t.prng = s.prng ∧
    t.regs.res0 = s.entry.copied ∧ t.regs.res1 = s.cipher.ck

/-- R103: a stream-level error leaves `SEQ` = `FAULT`, and no byte in `SCRATCH` in any state where the invariant
holds. -/
def Obligations.StreamLevelErrorFaultsTheContainer : Prop :=
  ∀ (i : Instr) (s t : State), exec i s = .next t →
    t.regs.err ∈ [some .keyChecksum, some .truncated, some .sizeOverflow] →
    t.seq = .fault ∧ t.ports.out = s.ports.out ∧ (s.Inv → t.scratch = [])

/-- R103, R107: in `FAULT` every command but `CORE_RESET` leaves `SEQ` at `FAULT`, and the reader and writer commands
change nothing but the error. -/
def Obligations.OnlyCoreResetLeavesFault : Prop :=
  ∀ (i : Instr) (s t : State), s.seq = .fault → exec i s = .next t →
    (i ≠ .coreReset → t.seq = .fault) ∧ (i = .coreReset → t.seq = .idle) ∧
    (i ∈ [.rdOpen, .rdHasnext, .rdEntry, .rdPull, .rdPut, .rdFinish, .wrOpen, .wrBegin, .wrPush, .wrEnd] →
      t = s.errored .unsupportedOperation 0x00000020#32)

/-- R16, R100: a word written to `CMD` adds bit `n` to `ERR_STICKY` when it ends with error code `n` and changes no bit
when it succeeds; no other event changes a bit but a power-on reset, which clears them all; bit 0 and bits [31:9] read
as zero; it is 0 at power-on. -/
def Obligations.ErrStickyRemembersEveryError : Prop :=
  (∀ (s t : State) (w : Word) (rest : List HostEvent),
    step { s with events := .memWrite 0x000 4 w :: rest } = .next t →
    t.regs.errSticky = s.regs.errSticky |||
      match t.regs.err with
      | none => 0x00000000#32
      | some e => 1#32 <<< (errCode (some e)).toNat) ∧
  (∀ (s t : State) (addr : Nat) (v : Word) (rest : List HostEvent), addr ≠ 0x000 →
    step { s with events := .memWrite addr 4 v :: rest } = .next t → t.regs.errSticky = s.regs.errSticky) ∧
  (∀ (s t : State) (addr : Nat) (rest : List HostEvent),
    step { s with events := .memRead addr 4 :: rest } = .next t → t.regs.errSticky = s.regs.errSticky) ∧
  (∀ (s t : State) (rest : List HostEvent),
    step { s with events := .powerOnReset :: rest } = .next t → t.regs.errSticky = 0x00000000#32) ∧
  (∀ s : State, regValue .errSticky s &&& 0xFFFFFE01#32 = 0) ∧
  State.reset.regs.errSticky = 0x00000000#32

/-- R22, R73, R100: a command completes in every state but the stuck ones: at the end of `POS` or `CLEN`, or with
`SCRATCH` full. -/
def Obligations.EveryCommandCompletesUnlessStuck : Prop :=
  ∀ (i : Instr) (s : State), s.cipher.pos.toNat < 2 ^ 64 - 1 → s.entry.clen.toNat < 2 ^ 64 - 1 →
    (∀ cap, s.scratchCap = some cap → s.scratch.length < cap) → ∃ t, exec i s = .next t

/-! ## Streams, operands and toggles -/

/-- R31: bytes already in `OUT` are never changed or removed, and `RD_PUT`, `RD_FINISH`, `WR_BEGIN` and `WR_END` are the
only commands that write it. -/
def Obligations.OutputIsOnlyAppendedTo : Prop :=
  (∀ s t : State, step s = .next t → s.ports.out <+: t.ports.out) ∧
  (∀ (i : Instr) (s t : State), exec i s = .next t → i ∉ [.rdPut, .rdFinish, .wrBegin, .wrEnd] →
    t.ports.out = s.ports.out)

/-- R30: `INPUT` never changes, `IN_POS` never goes back, and `RD_OPEN`, `RD_ENTRY`, `SUB_READ` and `RD_PULL` are the
only commands that move it. -/
def Obligations.InputIsConsumedForwardOnly : Prop :=
  (∀ s t : State, step s = .next t → t.ports.input = s.ports.input ∧ s.ports.inPos ≤ t.ports.inPos) ∧
  (∀ (i : Instr) (s t : State), exec i s = .next t → i ∉ [.rdOpen, .rdEntry, .subRead, .rdPull] →
    t.ports.inPos = s.ports.inPos)

/-- R10, R46, R122: no command writes `ARG0`, `ARG1` or `CONFIG`, takes an event from the host, or answers a read. -/
def Obligations.CommandsNeverWriteOperands : Prop :=
  ∀ (i : Instr) (s t : State), exec i s = .next t →
    t.regs.arg0 = s.regs.arg0 ∧ t.regs.arg1 = s.regs.arg1 ∧ t.regs.config = s.regs.config ∧
    t.events = s.events ∧ t.hostReads = s.hostReads ∧ t.scratchCap = s.scratchCap

/-- R15, R85, R119: whatever `CONFIG` holds, a command completes or not alike, and leaves the same `IDX` and
`PRNG_VALID`, the same cipher stream, sub-range and input position, and the same PRNG words: no toggle changes a draw.
Of the words `CORE_RESET` leaves, which may be any (R24), nothing is said. -/
def Obligations.TogglesNeverChangeADraw : Prop :=
  ∀ (i : Instr) (s t : State) (config : Word), exec i s = .next t →
    ∃ u : State, exec i { s with regs := { s.regs with config := config } } = .next u ∧
      u.prng.idx = t.prng.idx ∧ u.prng.valid = t.prng.valid ∧ (i ≠ .coreReset → u.prng = t.prng) ∧
      u.cipher = t.cipher ∧ u.sub = t.sub ∧ u.ports.inPos = t.ports.inPos

/-- R63: no command but `PRNG_SEED`, `RD_OPEN`, `WR_OPEN` and `CORE_RESET` changes the PRNG except by drawing. -/
def Obligations.OtherCommandsChangeThePrngByDrawing : Prop :=
  ∀ (i : Instr) (s t : State), exec i s = .next t → i ∉ [.prngSeed, .rdOpen, .wrOpen, .coreReset] →
    ∃ n : Nat, t.prng = prngAfter n s.prng

/-- R68: after `SUB_OPEN` of a budget `N` at `IN_POS` = `p`, any number of `SUB_READ` commands consumes the bytes from
`p` up to the budget or the end of `IN`, whichever is first, and no byte beyond. -/
def Obligations.SubRangeNeverReadsPastItsBudget : Prop :=
  ∀ (s : State) (budget : Word) (k : Nat),
    ∃ t : State, runProgram (.cmdArg .subOpen budget.toNat :: List.replicate k (.cmd .subRead)) s = .next t ∧
      t.sub.n = budget ∧
      t.sub.cnt.toNat = min k (min budget.toNat (s.ports.input.length - s.ports.inPos)) ∧
      t.ports.inPos = s.ports.inPos + t.sub.cnt.toNat

/-- R68, R85, R121: any number of `RD_PULL` commands on a fresh cipher stream consumes the sub-range's bytes up to its
budget or the end of `IN` and no byte beyond; pulling `n` bytes makes `n + 1` draws if `n` >= 1 and none if `n` = 0. -/
def Obligations.PullingDrawsOncePerByteWithinTheBudget : Prop :=
  ∀ (s : State) (k : Nat), s.seq = .rInEntry → s.sub.cnt = 0 → s.cipher.ckSeeded = false → s.cipher.pos = 0 →
    let n := min k (min s.sub.n.toNat (s.ports.input.length - s.ports.inPos))
    ∃ t : State, runProgram (List.replicate k (.cmd .rdPull)) s = .next t ∧
      t.prng = prngAfter (if n = 0 then 0 else n + 1) s.prng ∧
      t.sub.cnt.toNat = n ∧ t.ports.inPos = s.ports.inPos + n ∧ t.cipher.pos.toNat = n ∧ t.seq = .rInEntry

/-- R95: while a writer is pending, no command but `WR_BEGIN` and `CORE_RESET` changes `SEQ`, and none of the others
writes a byte to `OUT`. -/
def Obligations.PendingWriterEmitsNothing : Prop :=
  ∀ (i : Instr) (s t : State), s.seq = .wPending → exec i s = .next t → i ≠ .wrBegin →
    t.ports.out = s.ports.out ∧ (i ≠ .coreReset → t.seq = .wPending)

/-! ## The cipher as a stream (R78) -/

/-- R78 item 1: decrypting what was encrypted, from the same PRNG state, returns the plain bytes and ends with the same
`CK` and the same PRNG. -/
def Obligations.DecryptInvertsEncrypt : Prop :=
  ∀ (s : State) (plain : List Byte), s.prng.valid = true → plain.length < 2 ^ 64 →
    ∃ (cipherBytes : List Byte) (t u : State),
      runProgram (encryptProgram plain) s = .next t ∧
      t.hostReads = s.hostReads ++ cipherBytes.map (BitVec.setWidth 32) ∧
      runProgram (decryptProgram cipherBytes) s = .next u ∧
      u.hostReads = s.hostReads ++ plain.map (BitVec.setWidth 32) ∧
      u.cipher.ck = t.cipher.ck ∧ u.prng = t.prng

/-- R78 items 2 and 3: a stream of `n` bytes makes `n + 1` draws, none if `n` = 0, in both directions and whatever the
bytes are; with none, `CK` stays `CK_PREINIT`. -/
def Obligations.StreamDrawsDependOnItsLengthOnly : Prop :=
  ∀ (s : State) (bytes : List Byte), s.prng.valid = true → bytes.length < 2 ^ 64 →
    let draws := if bytes.length = 0 then 0 else bytes.length + 1
    ∃ t u : State,
      runProgram (encryptProgram bytes) s = .next t ∧ t.prng = prngAfter draws s.prng ∧
      runProgram (decryptProgram bytes) s = .next u ∧ u.prng = prngAfter draws s.prng ∧
      (bytes = [] → t.cipher.ck = 0x00000000#32 ∧ u.cipher.ck = 0x00000000#32)

/-- R78 item 4: changing one cipher byte changes the plain byte at that position by the same XOR and no other, and
changes the final `CK`. -/
def Obligations.OneTamperedByteChangesTheChecksum : Prop :=
  ∀ (s : State) (bytes : List Byte) (k : Nat) (c : Byte), s.prng.valid = true → bytes.length < 2 ^ 64 →
    k < bytes.length → bytes.getD k 0 ≠ c →
    ∃ (plain tampered : List Word) (t u : State),
      runProgram (decryptProgram bytes) s = .next t ∧ t.hostReads = s.hostReads ++ plain ∧
      runProgram (decryptProgram (bytes.set k c)) s = .next u ∧ u.hostReads = s.hostReads ++ tampered ∧
      plain.length = bytes.length ∧ tampered.length = bytes.length ∧
      (∀ j : Nat, tampered.getD j 0 =
        if j = k then plain.getD j 0 ^^^ (bytes.getD k 0 ^^^ c).setWidth 32 else plain.getD j 0) ∧
      t.cipher.ck ≠ u.cipher.ck

/-! ## Containers -/

/-- R49, R94: an entry of `n` pushed bytes makes `n + 3` draws when `n` >= 1 and 2 when `n` = 0, after the
`(key mod 31) + 5` draws of the global header if the entry is the first; and it adds to `OUT` the header's 8 bytes if it
is the first, 12 bytes and the payload. `SCRATCH` must have room for the payload (R22). -/
def Obligations.WriterDrawsAndBytesPerEntry : Prop :=
  ∀ (s : State) (e : EntryData), s.seq ∈ [.wPending, .wEntries] →
    (∀ cap, s.scratchCap = some cap → e.packed.length ≤ cap) → e.packed.length ≤ 0xFFFFFFFF → e.text.length ≤ 0xFFFFFFFF →
    let headerDraws := if s.hdr.hdrDone then 0 else s.hdr.keyR.toNat % 31 + 5
    let headerBytes := if s.hdr.hdrDone then 0 else 8
    let entryDraws := if e.packed.length = 0 then 2 else e.packed.length + 3
    ∃ t : State, runProgram (writeEntry e) s = .next t ∧
      t.seq = .wEntries ∧ t.prng = prngAfter (headerDraws + entryDraws) s.prng ∧
      t.ports.out.length = s.ports.out.length + headerBytes + 12 + e.packed.length

/-- R89, R96: the round trip. A writer run from `IDLE` over one or more entries, and a reader run from `IDLE` over its
output with the same key: both run without an error; the reader's `RD_ENTRY` answers the two sizes of each entry, its
`RD_PULL` the compressed bytes in order and then `EOD`, its `RD_FINISH` the checksum the writer answered; the last
`RD_HASNEXT` answers 0, the copied bytes are on the reader's `OUT`, and the two PRNG states are equal. `SCRATCH` must have
room for each entry (R22). -/
def Obligations.ReaderRecoversWhatTheWriterWrote : Prop :=
  ∀ (w0 r0 : State) (key seed : Word) (es : List EntryData), es ≠ [] →
    (∀ e ∈ es, e.packed.length ≤ 0xFFFFFFFF ∧ e.text.length ≤ 0xFFFFFFFF) →
    w0.seq = .idle → (∀ cap, w0.scratchCap = some cap → ∀ e ∈ es, e.packed.length ≤ cap) →
    w0.ports.out = [] → w0.hostReads = [] → w0.regs.errSticky = 0 →
    r0.seq = .idle → (∀ cap, r0.scratchCap = some cap → ∀ e ∈ es, e.text.length ≤ cap) →
    r0.ports.inPos = 0 → r0.hostReads = [] → r0.regs.errSticky = 0 →
    ∃ (w : State) (cks : List Word), runProgram (writeContainer key seed es) w0 = .next w ∧
      w.hostReads = cks ∧ cks.length = es.length ∧ w.regs.errSticky = 0 ∧
      (r0.ports.input = w.ports.out →
        ∃ r : State, runProgram (readContainer key es) r0 = .next r ∧
          r.hostReads = (List.zipWith entryReads es cks).flatten ++ [0x00000000#32] ∧
          r.regs.errSticky = 0 ∧ r.seq = .rExhausted ∧ r.prng = w.prng ∧
          r.ports.inPos = r.ports.input.length ∧ r.ports.out = r0.ports.out ++ es.flatMap EntryData.text)

/-! ## Reset and the invariant -/

/-- R23, R24: the machine after power-on reset. The value of `W[0..15]` is the model's choice (log 1), and the empty
`INPUT` and the unbounded `SCRATCH_CAP` are the defaults of open parameters (log 3, log 4): nothing is said of the
first two here. -/
def Obligations.ResetHoldsThePowerOnValues : Prop :=
  ∃ (w : Vector Word 16) (input : List Byte),
    State.reset = {
      regs := { arg0 := 0x00000000#32, arg1 := 0x00000000#32, res0 := 0x00000000#32, res1 := 0x00000000#32,
                config := 0x00000000#32, err := none, errSticky := 0x00000000#32 }
      seq := .idle
      prng := { w := w, idx := 0x0#4, valid := false }
      cipher := { ck := 0x00000000#32, ckSeeded := false, pos := 0x0#64, dir := 0#1 }
      sub := { n := 0x00000000#32, cnt := 0x00000000#32 }
      hdr := { hdrChk := 0x00000000#32, hdrSeed := 0x00000000#32, keyR := 0x00000000#32, seedR := 0x00000000#32,
               hdrDone := false }
      entry := { csize := 0x00000000#32, dsize := 0x00000000#32, chk := 0x00000000#32, copied := 0x00000000#32,
                 mask1 := 0x00000000#32, mask2 := 0x00000000#32, clen := 0x0#64, bufLatched := false }
      scratch := []
      ports := { input := input, inPos := 0, out := [] }
      scratchCap := none
      events := []
      hostReads := []
      freeCount := 0 }

/-- R23, R24, R113: a power-on reset during a run puts every element of the core at its power-on value and does not touch
the ports; `W[0..15]` may hold anything afterwards (log 2). That the model takes it as an event of a run is its choice
(log 7). -/
def Obligations.PowerOnResetClearsTheCore : Prop :=
  ∀ (s : State) (rest : List HostEvent), ∃ (w : Vector Word 16) (n : Nat),
    step { s with events := .powerOnReset :: rest } = .next { State.reset with
      prng := { w := w, idx := 0x0#4, valid := false }
      ports := s.ports
      scratchCap := s.scratchCap
      events := rest
      hostReads := s.hostReads
      freeCount := n }

/-- R13, R15, R16, R18, R19, R21, R22, R23, R83, R103: every step, whatever the event, keeps the invariant. -/
def Obligations.EveryStepKeepsTheInvariant : Prop := ∀ s t : State, s.Inv → step s = .next t → t.Inv

/-- The invariant holds at reset. -/
def Obligations.ResetMeetsTheInvariant : Prop := State.reset.Inv

/-- R18, R113: the PRNG words left by a reset are never observed: in any state where the invariant holds and
`PRNG_VALID` = 0, a step from other PRNG words has the same outcome but for those words, with the same `IDX` and
`PRNG_VALID`, and the same words too once the PRNG is seeded. That a host read of `PRNG_W<k>` while `PRNG_VALID` = 0
answers independently of the words is the model's choice (log 2): the spec lets such a read return any value. -/
def Obligations.UnseededWordsAreNeverObserved : Prop :=
  ∀ (s t : State) (w : Vector Word 16), s.Inv → s.prng.valid = false → step s = .next t →
    ∃ u : State, step { s with prng := { s.prng with w := w } } = .next u ∧
      { u with prng := t.prng } = t ∧ u.prng.idx = t.prng.idx ∧ u.prng.valid = t.prng.valid ∧
      (t.prng.valid = true → u.prng = t.prng)

/-! ## Notation and byte order -/

/-- R6: `rotr32` by 1 to 7 is the right rotation: bit `i` of the result is bit `(i + n) mod 32` of the operand, so the
`n` low bits become the high ones. -/
def Obligations.RotateRightMovesLowBitsHigh : Prop :=
  ∀ (x : Word) (n i : Nat), 1 ≤ n → n ≤ 7 → i < 32 →
    rotr32 x n = (x >>> n) ||| (x <<< (32 - n)) ∧ (rotr32 x n).getLsbD i = x.getLsbD ((i + n) % 32)

/-- R33: `BE32` and `BYTES_BE32` are inverse, and the first byte is the most significant. -/
def Obligations.BigEndianBytesAreInverse : Prop :=
  (∀ b0 b1 b2 b3 : Byte,
    (be32 b0 b1 b2 b3).toNat = b0.toNat * 2 ^ 24 + b1.toNat * 2 ^ 16 + b2.toNat * 2 ^ 8 + b3.toNat ∧
    bytesBE32 (be32 b0 b1 b2 b3) = [b0, b1, b2, b3]) ∧
  (∀ v : Word, ∃ b0 b1 b2 b3 : Byte, bytesBE32 v = [b0, b1, b2, b3] ∧ be32 b0 b1 b2 b3 = v)

/-- R53, R54: a well-formed program assembles to accesses the interface has, none of which is stuck for its width or
offset; the three statements of R53 stand for their accesses, and the four pseudo-instructions for those of R54, the
one-operand form for each of the nine commands whose only operand is in `ARG0` (R43). -/
def Obligations.WellFormedProgramsAssembleToAccesses : Prop :=
  (∀ (prog : List Stmt) (e : HostEvent), (∀ st ∈ prog, st.wf = true) → e ∈ assemble prog → e.wf = true) ∧
  (∀ (e : HostEvent) (s : State) (f : Fault), e.wf = true → step { s with events := [e] } = .fault f →
    f ∉ [.accessWidth, .accessMisaligned, .accessOutsideWindow]) ∧
  (∀ (r : Reg) (imm : Nat), assemble [.wr r imm] = [.memWrite (regOffset r) 4 (BitVec.ofNat 32 imm)]) ∧
  (∀ r : Reg, assemble [.rd r] = [.memRead (regOffset r) 4]) ∧
  (∀ i : Instr, assemble [.cmd i] = [.memWrite 0x000 4 (encode i)]) ∧
  (∀ i : Instr, i.oneOperand = true ↔
    i ∈ [.prngSeed, .keyChecksum, .subOpen, .ciphInit, .ciphDec, .ciphEnc, .rdOpen, .rdPut, .wrPush]) ∧
  (∀ (i : Instr) (a : Nat), i.oneOperand = true →
    assemble [.cmdArg i a] = [.memWrite 0x004 4 (BitVec.ofNat 32 a), .memWrite 0x000 4 (encode i)]) ∧
  (∀ a : Nat, assemble [.cmdArg .ciphDec a] =
    [.memWrite 0x004 4 (BitVec.ofNat 32 a), .memWrite 0x000 4 0x00000021#32]) ∧
  (∀ key seed : Nat, assemble [.wrOpenArgs key seed] =
    [.memWrite 0x004 4 (BitVec.ofNat 32 key), .memWrite 0x008 4 (BitVec.ofNat 32 seed),
      .memWrite 0x000 4 0x00000040#32]) ∧
  (∀ n : Nat, n < 2 ^ 64 → assemble [.wrEndSize n] =
    [.memWrite 0x004 4 (BitVec.ofNat 32 (n % 2 ^ 32)), .memWrite 0x008 4 (BitVec.ofNat 32 (n / 2 ^ 32)),
      .memWrite 0x000 4 0x00000043#32]) ∧
  (∀ a : Nat, assemble [.config a] = [.memWrite 0x00C 4 (BitVec.ofNat 32 a)])
end

