-- ==== Sys2Proof/Laws/Bits.lean ====
section
/-! SUPPORT. What the bit and byte operations compute: the small lemmas of Machine/Bits.lean. -/

namespace Sys2Proof.Machine

/-- The bits of four bytes joined, the first the most significant. -/
theorem getLsbD_append4 (b0 b1 b2 b3 : Byte) (i : Nat) :
    (b0 ++ b1 ++ b2 ++ b3 : BitVec 32).getLsbD i =
      if i < 8 then b3.getLsbD i else if i < 16 then b2.getLsbD (i - 8)
      else if i < 24 then b1.getLsbD (i - 16) else b0.getLsbD (i - 24) := by
  have h1 := BitVec.getLsbD_append (x := b0 ++ b1 ++ b2) (y := b3) (i := i)
  have h2 := BitVec.getLsbD_append (x := b0 ++ b1) (y := b2) (i := i - 8)
  have h3 := BitVec.getLsbD_append (x := b0) (y := b1) (i := i - 8 - 8)
  rw [h3] at h2
  rw [h2] at h1
  refine h1.trans ?_
  by_cases a : i < 8
  · simp [a]
  · by_cases b : i < 16
    · simp [a, b, show i - 8 < 8 by omega]
    · by_cases c : i < 24
      · simp [a, b, c, show ¬i - 8 < 8 by omega, show i - 8 - 8 = i - 16 by omega, show i - 16 < 8 by omega]
      · simp [a, b, c, show ¬i - 8 < 8 by omega, show ¬i - 8 - 8 < 8 by omega,
          show i - 8 - 8 - 8 = i - 24 by omega]

/-- `BE32` is the concatenation of its bytes, the first the most significant. -/
theorem be32_eq_append (b0 b1 b2 b3 : Byte) : be32 b0 b1 b2 b3 = (b0 ++ b1 ++ b2 ++ b3 : BitVec 32) := by
  apply BitVec.eq_of_getLsbD_eq
  intro i hi
  rw [getLsbD_append4]
  simp only [be32, zextByte, BitVec.getLsbD_or, BitVec.getLsbD_shiftLeft, BitVec.getLsbD_setWidth]
  have z (b : Byte) (j : Nat) (h : 8 ≤ j) : b.getLsbD j = false := BitVec.getLsbD_of_ge b j h
  by_cases a : i < 8
  · simp [a, hi, show i < 16 by omega, show i < 24 by omega]
  · by_cases b : i < 16
    · simp [a, b, hi, show i < 24 by omega, z _ i (by omega)]
      omega
    · by_cases c : i < 24
      · simp [a, b, c, hi, z _ i (by omega), z _ (i - 8) (by omega)]
        omega
      · simp [a, b, c, hi, z _ i (by omega), z _ (i - 8) (by omega), z _ (i - 16) (by omega)]
        omega

/-- `BYTES_BE32` takes a concatenation of four bytes apart again. -/
theorem bytesBE32_append (b0 b1 b2 b3 : Byte) :
    bytesBE32 (b0 ++ b1 ++ b2 ++ b3 : BitVec 32) = [b0, b1, b2, b3] := by
  simp only [bytesBE32, List.cons.injEq, and_true]
  refine ⟨?_, ?_, ?_, ?_⟩ <;>
    · apply BitVec.eq_of_getLsbD_eq
      intro i hi
      rw [BitVec.getLsbD_extractLsb', getLsbD_append4]
      simp [hi, show ¬24 + i < 8 by omega, show ¬24 + i < 16 by omega, show ¬24 + i < 24 by omega,
        show ¬16 + i < 8 by omega, show ¬16 + i < 16 by omega, show 16 + i < 24 by omega,
        show ¬8 + i < 8 by omega, show 8 + i < 16 by omega]

/-- `BYTES_BE32` writes four bytes. -/
@[simp] theorem bytesBE32_length (v : Word) : (bytesBE32 v).length = 4 := rfl

/-- The global header is 8 bytes (R50). -/
@[simp] theorem globalHeaderBytes_length (checksum seed : Word) : (globalHeaderBytes checksum seed).length = 8 := rfl

/-- An entry header is 12 bytes (R51). -/
@[simp] theorem entryHeaderBytes_length (csize dsize mask1 mask2 checksum : Word) :
    (entryHeaderBytes csize dsize mask1 mask2 checksum).length = 12 := rfl

/-- `rotr32` by less than a word's width is the library's right rotation. -/
theorem rotr32_eq_rotateRight (x : Word) (n : Nat) (h : n < 32) : rotr32 x n = x.rotateRight n := by
  rw [rotr32, BitVec.rotateRight_eq_rotateRightAux_of_lt h]
  rfl

/-- The byte zero-extension is the library's. -/
theorem zextByte_eq (b : Byte) : zextByte b = b.setWidth 32 := rfl

/-- `low_byte` is truncation to 8 bits. -/
theorem lowByte_eq (v : Word) : lowByte v = v.setWidth 8 := by
  rw [lowByte, BitVec.setWidth_eq_extractLsb' (by decide)]

end Sys2Proof.Machine
end

