-- ==== Sys2Proof/Laws/State.lean ====
section
/-! SUPPORT. The field lemmas of the named state updates: one per update and field, each true by `rfl` and a simp lemma,
so that no later proof unfolds a record update. -/

namespace Sys2Proof.Machine

section
variable (s : State)

@[simp] theorem State.setRegs_regs (x : HostRegs) : (s.setRegs x).regs = x := rfl
@[simp] theorem State.setRegs_seq (x : HostRegs) : (s.setRegs x).seq = s.seq := rfl
@[simp] theorem State.setRegs_prng (x : HostRegs) : (s.setRegs x).prng = s.prng := rfl
@[simp] theorem State.setRegs_cipher (x : HostRegs) : (s.setRegs x).cipher = s.cipher := rfl
@[simp] theorem State.setRegs_sub (x : HostRegs) : (s.setRegs x).sub = s.sub := rfl
@[simp] theorem State.setRegs_hdr (x : HostRegs) : (s.setRegs x).hdr = s.hdr := rfl
@[simp] theorem State.setRegs_entry (x : HostRegs) : (s.setRegs x).entry = s.entry := rfl
@[simp] theorem State.setRegs_scratch (x : HostRegs) : (s.setRegs x).scratch = s.scratch := rfl
@[simp] theorem State.setRegs_ports (x : HostRegs) : (s.setRegs x).ports = s.ports := rfl
@[simp] theorem State.setRegs_scratchCap (x : HostRegs) : (s.setRegs x).scratchCap = s.scratchCap := rfl
@[simp] theorem State.setRegs_events (x : HostRegs) : (s.setRegs x).events = s.events := rfl
@[simp] theorem State.setRegs_hostReads (x : HostRegs) : (s.setRegs x).hostReads = s.hostReads := rfl
@[simp] theorem State.setRegs_freeCount (x : HostRegs) : (s.setRegs x).freeCount = s.freeCount := rfl

@[simp] theorem State.setSeq_regs (x : Seq) : (s.setSeq x).regs = s.regs := rfl
@[simp] theorem State.setSeq_seq (x : Seq) : (s.setSeq x).seq = x := rfl
@[simp] theorem State.setSeq_prng (x : Seq) : (s.setSeq x).prng = s.prng := rfl
@[simp] theorem State.setSeq_cipher (x : Seq) : (s.setSeq x).cipher = s.cipher := rfl
@[simp] theorem State.setSeq_sub (x : Seq) : (s.setSeq x).sub = s.sub := rfl
@[simp] theorem State.setSeq_hdr (x : Seq) : (s.setSeq x).hdr = s.hdr := rfl
@[simp] theorem State.setSeq_entry (x : Seq) : (s.setSeq x).entry = s.entry := rfl
@[simp] theorem State.setSeq_scratch (x : Seq) : (s.setSeq x).scratch = s.scratch := rfl
@[simp] theorem State.setSeq_ports (x : Seq) : (s.setSeq x).ports = s.ports := rfl
@[simp] theorem State.setSeq_scratchCap (x : Seq) : (s.setSeq x).scratchCap = s.scratchCap := rfl
@[simp] theorem State.setSeq_events (x : Seq) : (s.setSeq x).events = s.events := rfl
@[simp] theorem State.setSeq_hostReads (x : Seq) : (s.setSeq x).hostReads = s.hostReads := rfl
@[simp] theorem State.setSeq_freeCount (x : Seq) : (s.setSeq x).freeCount = s.freeCount := rfl

@[simp] theorem State.setPrng_regs (x : Prng) : (s.setPrng x).regs = s.regs := rfl
@[simp] theorem State.setPrng_seq (x : Prng) : (s.setPrng x).seq = s.seq := rfl
@[simp] theorem State.setPrng_prng (x : Prng) : (s.setPrng x).prng = x := rfl
@[simp] theorem State.setPrng_cipher (x : Prng) : (s.setPrng x).cipher = s.cipher := rfl
@[simp] theorem State.setPrng_sub (x : Prng) : (s.setPrng x).sub = s.sub := rfl
@[simp] theorem State.setPrng_hdr (x : Prng) : (s.setPrng x).hdr = s.hdr := rfl
@[simp] theorem State.setPrng_entry (x : Prng) : (s.setPrng x).entry = s.entry := rfl
@[simp] theorem State.setPrng_scratch (x : Prng) : (s.setPrng x).scratch = s.scratch := rfl
@[simp] theorem State.setPrng_ports (x : Prng) : (s.setPrng x).ports = s.ports := rfl
@[simp] theorem State.setPrng_scratchCap (x : Prng) : (s.setPrng x).scratchCap = s.scratchCap := rfl
@[simp] theorem State.setPrng_events (x : Prng) : (s.setPrng x).events = s.events := rfl
@[simp] theorem State.setPrng_hostReads (x : Prng) : (s.setPrng x).hostReads = s.hostReads := rfl
@[simp] theorem State.setPrng_freeCount (x : Prng) : (s.setPrng x).freeCount = s.freeCount := rfl

@[simp] theorem State.setCipher_regs (x : Cipher) : (s.setCipher x).regs = s.regs := rfl
@[simp] theorem State.setCipher_seq (x : Cipher) : (s.setCipher x).seq = s.seq := rfl
@[simp] theorem State.setCipher_prng (x : Cipher) : (s.setCipher x).prng = s.prng := rfl
@[simp] theorem State.setCipher_cipher (x : Cipher) : (s.setCipher x).cipher = x := rfl
@[simp] theorem State.setCipher_sub (x : Cipher) : (s.setCipher x).sub = s.sub := rfl
@[simp] theorem State.setCipher_hdr (x : Cipher) : (s.setCipher x).hdr = s.hdr := rfl
@[simp] theorem State.setCipher_entry (x : Cipher) : (s.setCipher x).entry = s.entry := rfl
@[simp] theorem State.setCipher_scratch (x : Cipher) : (s.setCipher x).scratch = s.scratch := rfl
@[simp] theorem State.setCipher_ports (x : Cipher) : (s.setCipher x).ports = s.ports := rfl
@[simp] theorem State.setCipher_scratchCap (x : Cipher) : (s.setCipher x).scratchCap = s.scratchCap := rfl
@[simp] theorem State.setCipher_events (x : Cipher) : (s.setCipher x).events = s.events := rfl
@[simp] theorem State.setCipher_hostReads (x : Cipher) : (s.setCipher x).hostReads = s.hostReads := rfl
@[simp] theorem State.setCipher_freeCount (x : Cipher) : (s.setCipher x).freeCount = s.freeCount := rfl

@[simp] theorem State.setSub_regs (x : SubRange) : (s.setSub x).regs = s.regs := rfl
@[simp] theorem State.setSub_seq (x : SubRange) : (s.setSub x).seq = s.seq := rfl
@[simp] theorem State.setSub_prng (x : SubRange) : (s.setSub x).prng = s.prng := rfl
@[simp] theorem State.setSub_cipher (x : SubRange) : (s.setSub x).cipher = s.cipher := rfl
@[simp] theorem State.setSub_sub (x : SubRange) : (s.setSub x).sub = x := rfl
@[simp] theorem State.setSub_hdr (x : SubRange) : (s.setSub x).hdr = s.hdr := rfl
@[simp] theorem State.setSub_entry (x : SubRange) : (s.setSub x).entry = s.entry := rfl
@[simp] theorem State.setSub_scratch (x : SubRange) : (s.setSub x).scratch = s.scratch := rfl
@[simp] theorem State.setSub_ports (x : SubRange) : (s.setSub x).ports = s.ports := rfl
@[simp] theorem State.setSub_scratchCap (x : SubRange) : (s.setSub x).scratchCap = s.scratchCap := rfl
@[simp] theorem State.setSub_events (x : SubRange) : (s.setSub x).events = s.events := rfl
@[simp] theorem State.setSub_hostReads (x : SubRange) : (s.setSub x).hostReads = s.hostReads := rfl
@[simp] theorem State.setSub_freeCount (x : SubRange) : (s.setSub x).freeCount = s.freeCount := rfl

@[simp] theorem State.setHdr_regs (x : Header) : (s.setHdr x).regs = s.regs := rfl
@[simp] theorem State.setHdr_seq (x : Header) : (s.setHdr x).seq = s.seq := rfl
@[simp] theorem State.setHdr_prng (x : Header) : (s.setHdr x).prng = s.prng := rfl
@[simp] theorem State.setHdr_cipher (x : Header) : (s.setHdr x).cipher = s.cipher := rfl
@[simp] theorem State.setHdr_sub (x : Header) : (s.setHdr x).sub = s.sub := rfl
@[simp] theorem State.setHdr_hdr (x : Header) : (s.setHdr x).hdr = x := rfl
@[simp] theorem State.setHdr_entry (x : Header) : (s.setHdr x).entry = s.entry := rfl
@[simp] theorem State.setHdr_scratch (x : Header) : (s.setHdr x).scratch = s.scratch := rfl
@[simp] theorem State.setHdr_ports (x : Header) : (s.setHdr x).ports = s.ports := rfl
@[simp] theorem State.setHdr_scratchCap (x : Header) : (s.setHdr x).scratchCap = s.scratchCap := rfl
@[simp] theorem State.setHdr_events (x : Header) : (s.setHdr x).events = s.events := rfl
@[simp] theorem State.setHdr_hostReads (x : Header) : (s.setHdr x).hostReads = s.hostReads := rfl
@[simp] theorem State.setHdr_freeCount (x : Header) : (s.setHdr x).freeCount = s.freeCount := rfl

@[simp] theorem State.setEntry_regs (x : Entry) : (s.setEntry x).regs = s.regs := rfl
@[simp] theorem State.setEntry_seq (x : Entry) : (s.setEntry x).seq = s.seq := rfl
@[simp] theorem State.setEntry_prng (x : Entry) : (s.setEntry x).prng = s.prng := rfl
@[simp] theorem State.setEntry_cipher (x : Entry) : (s.setEntry x).cipher = s.cipher := rfl
@[simp] theorem State.setEntry_sub (x : Entry) : (s.setEntry x).sub = s.sub := rfl
@[simp] theorem State.setEntry_hdr (x : Entry) : (s.setEntry x).hdr = s.hdr := rfl
@[simp] theorem State.setEntry_entry (x : Entry) : (s.setEntry x).entry = x := rfl
@[simp] theorem State.setEntry_scratch (x : Entry) : (s.setEntry x).scratch = s.scratch := rfl
@[simp] theorem State.setEntry_ports (x : Entry) : (s.setEntry x).ports = s.ports := rfl
@[simp] theorem State.setEntry_scratchCap (x : Entry) : (s.setEntry x).scratchCap = s.scratchCap := rfl
@[simp] theorem State.setEntry_events (x : Entry) : (s.setEntry x).events = s.events := rfl
@[simp] theorem State.setEntry_hostReads (x : Entry) : (s.setEntry x).hostReads = s.hostReads := rfl
@[simp] theorem State.setEntry_freeCount (x : Entry) : (s.setEntry x).freeCount = s.freeCount := rfl

@[simp] theorem State.setScratch_regs (x : List Byte) : (s.setScratch x).regs = s.regs := rfl
@[simp] theorem State.setScratch_seq (x : List Byte) : (s.setScratch x).seq = s.seq := rfl
@[simp] theorem State.setScratch_prng (x : List Byte) : (s.setScratch x).prng = s.prng := rfl
@[simp] theorem State.setScratch_cipher (x : List Byte) : (s.setScratch x).cipher = s.cipher := rfl
@[simp] theorem State.setScratch_sub (x : List Byte) : (s.setScratch x).sub = s.sub := rfl
@[simp] theorem State.setScratch_hdr (x : List Byte) : (s.setScratch x).hdr = s.hdr := rfl
@[simp] theorem State.setScratch_entry (x : List Byte) : (s.setScratch x).entry = s.entry := rfl
@[simp] theorem State.setScratch_scratch (x : List Byte) : (s.setScratch x).scratch = x := rfl
@[simp] theorem State.setScratch_ports (x : List Byte) : (s.setScratch x).ports = s.ports := rfl
@[simp] theorem State.setScratch_scratchCap (x : List Byte) : (s.setScratch x).scratchCap = s.scratchCap := rfl
@[simp] theorem State.setScratch_events (x : List Byte) : (s.setScratch x).events = s.events := rfl
@[simp] theorem State.setScratch_hostReads (x : List Byte) : (s.setScratch x).hostReads = s.hostReads := rfl
@[simp] theorem State.setScratch_freeCount (x : List Byte) : (s.setScratch x).freeCount = s.freeCount := rfl

@[simp] theorem State.setPorts_regs (x : Ports) : (s.setPorts x).regs = s.regs := rfl
@[simp] theorem State.setPorts_seq (x : Ports) : (s.setPorts x).seq = s.seq := rfl
@[simp] theorem State.setPorts_prng (x : Ports) : (s.setPorts x).prng = s.prng := rfl
@[simp] theorem State.setPorts_cipher (x : Ports) : (s.setPorts x).cipher = s.cipher := rfl
@[simp] theorem State.setPorts_sub (x : Ports) : (s.setPorts x).sub = s.sub := rfl
@[simp] theorem State.setPorts_hdr (x : Ports) : (s.setPorts x).hdr = s.hdr := rfl
@[simp] theorem State.setPorts_entry (x : Ports) : (s.setPorts x).entry = s.entry := rfl
@[simp] theorem State.setPorts_scratch (x : Ports) : (s.setPorts x).scratch = s.scratch := rfl
@[simp] theorem State.setPorts_ports (x : Ports) : (s.setPorts x).ports = x := rfl
@[simp] theorem State.setPorts_scratchCap (x : Ports) : (s.setPorts x).scratchCap = s.scratchCap := rfl
@[simp] theorem State.setPorts_events (x : Ports) : (s.setPorts x).events = s.events := rfl
@[simp] theorem State.setPorts_hostReads (x : Ports) : (s.setPorts x).hostReads = s.hostReads := rfl
@[simp] theorem State.setPorts_freeCount (x : Ports) : (s.setPorts x).freeCount = s.freeCount := rfl

@[simp] theorem State.setEvents_regs (x : List HostEvent) : (s.setEvents x).regs = s.regs := rfl
@[simp] theorem State.setEvents_seq (x : List HostEvent) : (s.setEvents x).seq = s.seq := rfl
@[simp] theorem State.setEvents_prng (x : List HostEvent) : (s.setEvents x).prng = s.prng := rfl
@[simp] theorem State.setEvents_cipher (x : List HostEvent) : (s.setEvents x).cipher = s.cipher := rfl
@[simp] theorem State.setEvents_sub (x : List HostEvent) : (s.setEvents x).sub = s.sub := rfl
@[simp] theorem State.setEvents_hdr (x : List HostEvent) : (s.setEvents x).hdr = s.hdr := rfl
@[simp] theorem State.setEvents_entry (x : List HostEvent) : (s.setEvents x).entry = s.entry := rfl
@[simp] theorem State.setEvents_scratch (x : List HostEvent) : (s.setEvents x).scratch = s.scratch := rfl
@[simp] theorem State.setEvents_ports (x : List HostEvent) : (s.setEvents x).ports = s.ports := rfl
@[simp] theorem State.setEvents_scratchCap (x : List HostEvent) : (s.setEvents x).scratchCap = s.scratchCap := rfl
@[simp] theorem State.setEvents_events (x : List HostEvent) : (s.setEvents x).events = x := rfl
@[simp] theorem State.setEvents_hostReads (x : List HostEvent) : (s.setEvents x).hostReads = s.hostReads := rfl
@[simp] theorem State.setEvents_freeCount (x : List HostEvent) : (s.setEvents x).freeCount = s.freeCount := rfl

@[simp] theorem State.setHostReads_regs (x : List Word) : (s.setHostReads x).regs = s.regs := rfl
@[simp] theorem State.setHostReads_seq (x : List Word) : (s.setHostReads x).seq = s.seq := rfl
@[simp] theorem State.setHostReads_prng (x : List Word) : (s.setHostReads x).prng = s.prng := rfl
@[simp] theorem State.setHostReads_cipher (x : List Word) : (s.setHostReads x).cipher = s.cipher := rfl
@[simp] theorem State.setHostReads_sub (x : List Word) : (s.setHostReads x).sub = s.sub := rfl
@[simp] theorem State.setHostReads_hdr (x : List Word) : (s.setHostReads x).hdr = s.hdr := rfl
@[simp] theorem State.setHostReads_entry (x : List Word) : (s.setHostReads x).entry = s.entry := rfl
@[simp] theorem State.setHostReads_scratch (x : List Word) : (s.setHostReads x).scratch = s.scratch := rfl
@[simp] theorem State.setHostReads_ports (x : List Word) : (s.setHostReads x).ports = s.ports := rfl
@[simp] theorem State.setHostReads_scratchCap (x : List Word) : (s.setHostReads x).scratchCap = s.scratchCap := rfl
@[simp] theorem State.setHostReads_events (x : List Word) : (s.setHostReads x).events = s.events := rfl
@[simp] theorem State.setHostReads_hostReads (x : List Word) : (s.setHostReads x).hostReads = x := rfl
@[simp] theorem State.setHostReads_freeCount (x : List Word) : (s.setHostReads x).freeCount = s.freeCount := rfl

@[simp] theorem State.setFreeCount_regs (x : Nat) : (s.setFreeCount x).regs = s.regs := rfl
@[simp] theorem State.setFreeCount_seq (x : Nat) : (s.setFreeCount x).seq = s.seq := rfl
@[simp] theorem State.setFreeCount_prng (x : Nat) : (s.setFreeCount x).prng = s.prng := rfl
@[simp] theorem State.setFreeCount_cipher (x : Nat) : (s.setFreeCount x).cipher = s.cipher := rfl
@[simp] theorem State.setFreeCount_sub (x : Nat) : (s.setFreeCount x).sub = s.sub := rfl
@[simp] theorem State.setFreeCount_hdr (x : Nat) : (s.setFreeCount x).hdr = s.hdr := rfl
@[simp] theorem State.setFreeCount_entry (x : Nat) : (s.setFreeCount x).entry = s.entry := rfl
@[simp] theorem State.setFreeCount_scratch (x : Nat) : (s.setFreeCount x).scratch = s.scratch := rfl
@[simp] theorem State.setFreeCount_ports (x : Nat) : (s.setFreeCount x).ports = s.ports := rfl
@[simp] theorem State.setFreeCount_scratchCap (x : Nat) : (s.setFreeCount x).scratchCap = s.scratchCap := rfl
@[simp] theorem State.setFreeCount_events (x : Nat) : (s.setFreeCount x).events = s.events := rfl
@[simp] theorem State.setFreeCount_hostReads (x : Nat) : (s.setFreeCount x).hostReads = s.hostReads := rfl
@[simp] theorem State.setFreeCount_freeCount (x : Nat) : (s.setFreeCount x).freeCount = x := rfl

@[simp] theorem State.setErr_regs (e : Option Error) : (s.setErr e).regs = { s.regs with err := e } := rfl
@[simp] theorem State.setErr_seq (e : Option Error) : (s.setErr e).seq = s.seq := rfl
@[simp] theorem State.setErr_prng (e : Option Error) : (s.setErr e).prng = s.prng := rfl
@[simp] theorem State.setErr_cipher (e : Option Error) : (s.setErr e).cipher = s.cipher := rfl
@[simp] theorem State.setErr_sub (e : Option Error) : (s.setErr e).sub = s.sub := rfl
@[simp] theorem State.setErr_hdr (e : Option Error) : (s.setErr e).hdr = s.hdr := rfl
@[simp] theorem State.setErr_entry (e : Option Error) : (s.setErr e).entry = s.entry := rfl
@[simp] theorem State.setErr_scratch (e : Option Error) : (s.setErr e).scratch = s.scratch := rfl
@[simp] theorem State.setErr_ports (e : Option Error) : (s.setErr e).ports = s.ports := rfl
@[simp] theorem State.setErr_scratchCap (e : Option Error) : (s.setErr e).scratchCap = s.scratchCap := rfl
@[simp] theorem State.setErr_events (e : Option Error) : (s.setErr e).events = s.events := rfl
@[simp] theorem State.setErr_hostReads (e : Option Error) : (s.setErr e).hostReads = s.hostReads := rfl
@[simp] theorem State.setErr_freeCount (e : Option Error) : (s.setErr e).freeCount = s.freeCount := rfl

@[simp] theorem State.setRes_regs (r0 r1 : Word) : (s.setRes r0 r1).regs = { s.regs with res0 := r0, res1 := r1 } := rfl
@[simp] theorem State.setRes_seq (r0 r1 : Word) : (s.setRes r0 r1).seq = s.seq := rfl
@[simp] theorem State.setRes_prng (r0 r1 : Word) : (s.setRes r0 r1).prng = s.prng := rfl
@[simp] theorem State.setRes_cipher (r0 r1 : Word) : (s.setRes r0 r1).cipher = s.cipher := rfl
@[simp] theorem State.setRes_sub (r0 r1 : Word) : (s.setRes r0 r1).sub = s.sub := rfl
@[simp] theorem State.setRes_hdr (r0 r1 : Word) : (s.setRes r0 r1).hdr = s.hdr := rfl
@[simp] theorem State.setRes_entry (r0 r1 : Word) : (s.setRes r0 r1).entry = s.entry := rfl
@[simp] theorem State.setRes_scratch (r0 r1 : Word) : (s.setRes r0 r1).scratch = s.scratch := rfl
@[simp] theorem State.setRes_ports (r0 r1 : Word) : (s.setRes r0 r1).ports = s.ports := rfl
@[simp] theorem State.setRes_scratchCap (r0 r1 : Word) : (s.setRes r0 r1).scratchCap = s.scratchCap := rfl
@[simp] theorem State.setRes_events (r0 r1 : Word) : (s.setRes r0 r1).events = s.events := rfl
@[simp] theorem State.setRes_hostReads (r0 r1 : Word) : (s.setRes r0 r1).hostReads = s.hostReads := rfl
@[simp] theorem State.setRes_freeCount (r0 r1 : Word) : (s.setRes r0 r1).freeCount = s.freeCount := rfl

@[simp] theorem raise_regs (e : Error) : (raise e s).regs =
    { s.regs with err := some e, errSticky := s.regs.errSticky ||| e.stickyBit } := rfl
@[simp] theorem raise_seq (e : Error) : (raise e s).seq = s.seq := rfl
@[simp] theorem raise_prng (e : Error) : (raise e s).prng = s.prng := rfl
@[simp] theorem raise_cipher (e : Error) : (raise e s).cipher = s.cipher := rfl
@[simp] theorem raise_sub (e : Error) : (raise e s).sub = s.sub := rfl
@[simp] theorem raise_hdr (e : Error) : (raise e s).hdr = s.hdr := rfl
@[simp] theorem raise_entry (e : Error) : (raise e s).entry = s.entry := rfl
@[simp] theorem raise_scratch (e : Error) : (raise e s).scratch = s.scratch := rfl
@[simp] theorem raise_ports (e : Error) : (raise e s).ports = s.ports := rfl
@[simp] theorem raise_scratchCap (e : Error) : (raise e s).scratchCap = s.scratchCap := rfl
@[simp] theorem raise_events (e : Error) : (raise e s).events = s.events := rfl
@[simp] theorem raise_hostReads (e : Error) : (raise e s).hostReads = s.hostReads := rfl
@[simp] theorem raise_freeCount (e : Error) : (raise e s).freeCount = s.freeCount := rfl

end

end Sys2Proof.Machine
end

