-- ==== Sys2Proof/Laws/Ops.lean ====
section
/-! SUPPORT. One lemma for each shared operation that says once everything it can do. -/

namespace Sys2Proof.Machine

/-! ### Dispatch -/

/-- A decoded command either runs its rule on the state with `STATUS.ERR` cleared, or is refused by `SEQ`. -/
theorem command_cases (i : Instr) (rule : State → Result) (s : State) :
    (legal i s.seq = true ∧ command i rule s = rule (s.setErr none)) ∨
    (legal i s.seq = false ∧ command i rule s = .next (raise .unsupportedOperation (s.setErr none))) := by
  cases h : legal i s.seq <;> simp [command, h]

/-- A legal command runs its rule. -/
theorem command_of_legal {i : Instr} {s : State} (rule : State → Result) (h : legal i s.seq = true) :
    command i rule s = rule (s.setErr none) := by simp [command, h]

/-- A command outside its `SEQ` values is refused. -/
theorem command_of_illegal {i : Instr} {s : State} (rule : State → Result) (h : legal i s.seq = false) :
    command i rule s = .next (raise .unsupportedOperation (s.setErr none)) := by simp [command, h]

/-- The rule each command runs once dispatch has let it through (R43). -/
def ruleOf : Instr → State → Result
  | .nop => fun s => .next s
  | .prngSeed => fun s => .next (s.setPrng (prngSeed (argWord s)))
  | .prngNext => prngNextRule
  | .keyChecksum => keyChecksumRule
  | .subOpen => fun s => .next (s.setSub (subOpen (argWord s)))
  | .subRead => subReadRule
  | .ciphInit => fun s => .next (s.setCipher (cipherInit (argDir s)))
  | .ciphDec => ciphDecRule
  | .ciphEnc => ciphEncRule
  | .rdOpen => rdOpenRule
  | .rdHasnext => rdHasnextRule
  | .rdEntry => rdEntryRule
  | .rdPull => rdPullRule
  | .rdPut => rdPutRule
  | .rdFinish => rdFinishRule
  | .wrOpen => wrOpenRule
  | .wrBegin => wrBeginRule
  | .wrPush => wrPushRule
  | .wrEnd => wrEndRule
  | .coreReset => fun s => .next (coreReset s)

/-- Every arm of `exec` is a dispatched command. -/
theorem exec_eq_command (i : Instr) (s : State) : exec i s = command i (ruleOf i) s := by
  cases i <;> rfl

/-- Raising over a cleared error is the raised error alone. -/
theorem raise_setErr (e e' : Error) (s : State) (o : Option Error) :
    raise e' (raise e (s.setErr o)) =
      s.setRegs { s.regs with err := some e', errSticky := s.regs.errSticky ||| e.stickyBit ||| e'.stickyBit } := rfl

/-! ### Ports and scratch -/

/-- Bytes standing at the read position are read there. -/
theorem getD_of_drop {l : List Byte} {n : Nat} {bs tail : List Byte} (h : l.drop n = bs ++ tail) (k : Nat)
    (hk : k < bs.length) : l.getD (n + k) 0 = bs.getD k 0 := by
  have := congrArg (fun l => l.getD k 0) h
  simpa [List.getD_eq_getElem?_getD, List.getElem?_drop, List.getElem?_append_left hk] using this

/-- What `InRead8` returns and where it leaves `IN_POS`. -/
theorem inRead8_spec (p : Ports) :
    inRead8 p = (p.input.getD p.inPos 0, { p with inPos := p.inPos + 1 }) := rfl

/-- What four `InRead8` return, joined big-endian, and where they leave `IN_POS`. -/
theorem inRead32_spec (p : Ports) :
    inRead32 p =
      (p.input.getD p.inPos 0 ++ p.input.getD (p.inPos + 1) 0 ++ p.input.getD (p.inPos + 2) 0 ++
        p.input.getD (p.inPos + 3) 0, { p with inPos := p.inPos + 4 }) := by
  simp [inRead32, inRead8, be32_eq_append]

/-- Draining leaves `IN_POS` at the end of `INPUT`, or where it was if it stood beyond. -/
theorem inDrain_spec (p : Ports) : inDrain p = { p with inPos := max p.inPos p.input.length } := by
  have : p.inPos + (p.input.length - p.inPos) = max p.inPos p.input.length := by omega
  simp [inDrain, inAvail, this]

/-- `while InAvail() > 0: InRead8()`, as a loop with the unread bytes as its bound. -/
def drainLoop : Nat → Ports → Ports
  | 0, p => p
  | n + 1, p => if inAvail p > 0 then drainLoop n (inRead8 p).2 else p

/-- `inDrain` is the loop of R79 and R81. -/
theorem inDrain_eq_drainLoop (p : Ports) : inDrain p = drainLoop (inAvail p) p := by
  generalize h : inAvail p = n
  induction n generalizing p with
  | zero => simp [inDrain, drainLoop, h]
  | succ n ih =>
    have h' : inAvail (inRead8 p).2 = n := by simp [inAvail, inRead8] at h ⊢; omega
    have hpos : inAvail p > 0 := by omega
    rw [drainLoop, if_pos hpos, ← ih _ h', inDrain, inDrain, h, h']
    simp [inRead8]
    omega

/-- An append to `SCRATCH` writes one byte at its end where there is room, and has no step elsewhere. -/
theorem scratchAppend_cases (b : Byte) (s : State) :
    ((∀ cap, s.scratchCap = some cap → s.scratch.length < cap) ∧
      scratchAppend b s = some (s.setScratch (s.scratch ++ [b]))) ∨
    (∃ cap, s.scratchCap = some cap ∧ cap ≤ s.scratch.length ∧ scratchAppend b s = none) := by
  unfold scratchAppend
  cases h : s.scratchCap with
  | none => simp
  | some cap =>
    by_cases hc : s.scratch.length < cap
    · left; simp [hc]
    · right; exact ⟨cap, rfl, by omega, by simp [hc]⟩

/-! ### PRNG -/

@[simp] theorem prngSeed_valid (s : Word) : (prngSeed s).valid = true := rfl

@[simp] theorem prngSeed_idx (s : Word) : (prngSeed s).idx = 0#4 := rfl

/-- `W[k]` after seeding. -/
theorem prngSeed_word (s : Word) (i : BitVec 4) : (prngSeed s).word i = seedWord s i.toNat := by
  simp [prngSeed, Prng.word]

@[simp] theorem Prng.setWord_idx (p : Prng) (i : BitVec 4) (v : Word) : (p.setWord i v).idx = p.idx := rfl

@[simp] theorem Prng.setWord_valid (p : Prng) (i : BitVec 4) (v : Word) : (p.setWord i v).valid = p.valid := rfl

/-- A word of the PRNG after one of them is written. -/
theorem Prng.word_setWord (p : Prng) (i j : BitVec 4) (v : Word) :
    (p.setWord i v).word j = if i = j then v else p.word j := by
  simp only [Prng.word, Prng.setWord, Vector.getElem_set, BitVec.toNat_inj]

@[simp] theorem prngNext_valid (p : Prng) : (prngNext p).2.valid = p.valid := rfl

@[simp] theorem prngNext_idx (p : Prng) : (prngNext p).2.idx = p.idx + 15#4 := rfl

/-- A draw returns the new `W[IDX]` (R58). -/
theorem prngNext_word (p : Prng) : (prngNext p).1 = (prngNext p).2.word (prngNext p).2.idx := rfl

/-- The two words a draw writes are distinct. -/
theorem idx_ne (x : BitVec 4) : x ≠ x + 15#4 := by revert x; decide

/-- The word a draw stores at the old `IDX` (R58). -/
def drawLow (p : Prng) : Word :=
  let a := p.word p.idx
  let b := p.word (p.idx + 13#4)
  let c := p.word (p.idx + 9#4)
  c ^^^ (c >>> 11) ^^^ (a ^^^ (a <<< 16) ^^^ b ^^^ (b <<< 15))

/-- The words after a draw: the old `W[IDX]` and the word below it change, every other is kept (R58). -/
theorem prngNext_words (p : Prng) (i : BitVec 4) :
    (prngNext p).2.word i =
      if p.idx + 15#4 = i then (prngNext p).1 else if p.idx = i then drawLow p else p.word i := by
  by_cases h : p.idx + 15#4 = i
  · rw [if_pos h, ← h]; rfl
  · rw [if_neg h]
    by_cases h' : p.idx = i
    · rw [if_pos h']
      subst h'
      refine (Prng.word_setWord _ _ _ _).trans ((if_neg h).trans ?_)
      exact (Prng.word_setWord _ _ _ _).trans (if_pos rfl)
    · rw [if_neg h']
      refine (Prng.word_setWord _ _ _ _).trans ((if_neg h).trans ?_)
      exact (Prng.word_setWord _ _ _ _).trans (if_neg h')

/-- The word a draw returns, over the words before it (R58). -/
theorem prngNext_fst (p : Prng) :
    (prngNext p).1 =
      let a := p.word p.idx
      let b := p.word (p.idx + 13#4)
      let c := a ^^^ (a <<< 16) ^^^ b ^^^ (b <<< 15)
      let b := p.word (p.idx + 9#4) ^^^ (p.word (p.idx + 9#4) >>> 11)
      let d := drawLow p ^^^ ((drawLow p <<< 5) &&& 0xDA442D24#32)
      let a := p.word (p.idx + 15#4)
      a ^^^ (a <<< 2) ^^^ (b <<< 28) ^^^ c ^^^ (c <<< 18) ^^^ d := by
  have h1 (v : Word) : (p.setWord p.idx v).word p.idx = v := (Prng.word_setWord _ _ _ _).trans (if_pos rfl)
  have h2 (v : Word) : (p.setWord p.idx v).word (p.idx + 15#4) = p.word (p.idx + 15#4) :=
    (Prng.word_setWord _ _ _ _).trans (if_neg (idx_ne _))
  have h3 (q : Prng) (j : BitVec 4) : ({ q with idx := j } : Prng).word = q.word := rfl
  simp only [prngNext, Prng.setWord_idx, Prng.word_setWord, if_true, h1, h2, h3]
  rfl

@[simp] theorem prngAfter_zero (p : Prng) : prngAfter 0 p = p := rfl

@[simp] theorem prngAfter_succ (n : Nat) (p : Prng) : prngAfter (n + 1) p = prngAfter n (prngNext p).2 := rfl

@[simp] theorem prngAfter_valid (n : Nat) (p : Prng) : (prngAfter n p).valid = p.valid := by
  induction n generalizing p with
  | zero => rfl
  | succ n ih => simp [ih]

/-- Draws compose. -/
theorem prngAfter_add (m n : Nat) (p : Prng) : prngAfter (m + n) p = prngAfter n (prngAfter m p) := by
  induction m generalizing p with
  | zero => simp
  | succ m ih => rw [Nat.add_right_comm, prngAfter_succ, prngAfter_succ, ih]

/-- The rounds of the key checksum: the XOR of the draws, and the PRNG after them. -/
theorem xorDraws_spec (n : Nat) (acc : Word) (p : Prng) :
    xorDraws n acc p = ((prngDraws n p).foldl (· ^^^ ·) acc, prngAfter n p) := by
  induction n generalizing acc p with
  | zero => rfl
  | succ n ih => simp [xorDraws, prngDraws, ih]

/-- `KeyChecksum(key)` (R59). -/
theorem keyChecksum_spec (key : Word) (p : Prng) :
    keyChecksum key p = (xorOfDraws (key.toNat % 31 + 5) p, prngAfter (key.toNat % 31 + 5) p) :=
  xorDraws_spec _ _ _

/-! ### Sub-range -/

/-- A read through the sub-range is `EOD` at the end of the budget or of `IN`, else the next byte, counted. -/
theorem subRead_cases (u : SubRange) (p : Ports) :
    ((u.cnt = u.n ∨ p.input.length ≤ p.inPos) ∧ subRead u p = none) ∨
    (u.cnt ≠ u.n ∧ ∃ b, p.input[p.inPos]? = some b ∧
      subRead u p = some (b, { u with cnt := u.cnt + 1 }, { p with inPos := p.inPos + 1 })) := by
  by_cases h : u.cnt = u.n
  · left; simp [subRead, h]
  · by_cases hp : p.input.length ≤ p.inPos
    · left; simp [subRead, inAvail, hp]
    · right
      refine ⟨h, p.input[p.inPos]'(by omega), List.getElem?_eq_getElem (by omega), ?_⟩
      simp [subRead, h, inAvail, inRead8, List.getD_eq_getElem?_getD,
        List.getElem?_eq_getElem (show p.inPos < p.input.length by omega)]
      omega

/-! ### Cipher -/

/-- The keystream byte and the record after a byte, seen from the two units alone. -/
theorem decryptByte_spec (b : Byte) (s : State) :
    decryptByte b s.prng s.cipher =
      if s.cipher.pos = BitVec.allOnes 64 then none
      else some (b ^^^ s.keyByte, (s.afterByte (b ^^^ s.keyByte)).prng, (s.afterByte (b ^^^ s.keyByte)).cipher) := by
  unfold decryptByte
  split
  · rfl
  · have hr (x : Word) : rotr32 x (s.cipher.pos.toNat % 7 + 1) = x.rotateRight (s.cipher.pos.toNat % 7 + 1) :=
      rotr32_eq_rotateRight _ _ (by omega)
    cases hs : s.cipher.ckSeeded <;>
      simp [seedIfNeeded, keystream, ckUpdate, posNext, State.afterByte, State.keyByte, State.byteSeed, hs, hr,
        lowByte_eq, zextByte_eq]

/-- Encrypting one byte, seen from the two units alone. -/
theorem encryptByte_spec (b : Byte) (s : State) :
    encryptByte b s.prng s.cipher =
      if s.cipher.pos = BitVec.allOnes 64 then none
      else some (b ^^^ s.keyByte, (s.afterByte b).prng, (s.afterByte b).cipher) := by
  unfold encryptByte
  split
  · rfl
  · have hr (x : Word) : rotr32 x (s.cipher.pos.toNat % 7 + 1) = x.rotateRight (s.cipher.pos.toNat % 7 + 1) :=
      rotr32_eq_rotateRight _ _ (by omega)
    cases hs : s.cipher.ckSeeded <;>
      simp [seedIfNeeded, keystream, ckUpdate, posNext, State.afterByte, State.keyByte, State.byteSeed, hs, hr,
        lowByte_eq, zextByte_eq]

/-- `POS` = 2^64 - 1, as a number. -/
theorem pos_eq_allOnes (v : DWord) : v = BitVec.allOnes 64 ↔ v.toNat = 2 ^ 64 - 1 := by
  rw [← BitVec.toNat_inj, BitVec.toNat_allOnes]

/-! ### The host port -/

/-- A regular access has no fault, and a fault of an access is one of the three of R29. -/
theorem accessFault_eq_none (addr nbytes : Nat) :
    accessFault addr nbytes = none ↔ nbytes = 4 ∧ addr % 4 = 0 ∧ addr < 0x1000 := by
  unfold accessFault Config.regSpace
  split
  · simp; omega
  · split
    · simp; omega
    · split <;> simp <;> omega

/-- `accessFault` is the check of well-formed accesses. -/
theorem accessFault_eq_none_iff_wf (addr nbytes : Nat) :
    accessFault addr nbytes = none ↔ accessWf addr nbytes = true := by
  rw [accessFault_eq_none]
  simp [accessWf, Config.regSpace, and_assoc]
  intros
  exact decide_eq_true_iff.symm

/-- The map has a register at its own offset. -/
theorem regAt_regOffset (r : Reg) : regAt (regOffset r) = some r := by
  cases r with
  | prngW k => revert k; decide
  | _ => rfl

/-- A register found at an offset stands there. -/
theorem regOffset_of_regAt {addr : Nat} {r : Reg} (h : regAt addr = some r) : regOffset r = addr := by
  simpa using List.find?_some h

/-- Every register stands at an aligned offset of the window. -/
theorem accessFault_regOffset (r : Reg) : accessFault (regOffset r) 4 = none := by
  rw [accessFault_eq_none]
  cases r with
  | prngW k => simp [regOffset]; omega
  | _ => decide

/-- The step takes the first waiting event. -/
theorem step_cons {s : State} {e : HostEvent} {rest : List HostEvent} (h : s.events = e :: rest) :
    step s = handleEvent e (s.setEvents rest) := by simp [step, nextEvent, h]

end Sys2Proof.Machine
end

