-- ==== Sys2Proof/Laws/PerInstr.lean ====
section
/-! SUPPORT. The family `DecodeEncode`: for each command, decoding its encoding gives it back. -/

namespace Sys2Proof.Laws

/-- Decoding the encoding of a well-formed command gives the command back (30_encoding.md R41, R43). -/
def DecodeEncode.Statement (i : Instr) : Prop := i.wf = true → decode (encode i) = .ok i

theorem DecodeEncode.nop : DecodeEncode.Statement .nop := fun _ => rfl
theorem DecodeEncode.prngSeed : DecodeEncode.Statement .prngSeed := fun _ => rfl
theorem DecodeEncode.prngNext : DecodeEncode.Statement .prngNext := fun _ => rfl
theorem DecodeEncode.keyChecksum : DecodeEncode.Statement .keyChecksum := fun _ => rfl
theorem DecodeEncode.subOpen : DecodeEncode.Statement .subOpen := fun _ => rfl
theorem DecodeEncode.subRead : DecodeEncode.Statement .subRead := fun _ => rfl
theorem DecodeEncode.ciphInit : DecodeEncode.Statement .ciphInit := fun _ => rfl
theorem DecodeEncode.ciphDec : DecodeEncode.Statement .ciphDec := fun _ => rfl
theorem DecodeEncode.ciphEnc : DecodeEncode.Statement .ciphEnc := fun _ => rfl
theorem DecodeEncode.rdOpen : DecodeEncode.Statement .rdOpen := fun _ => rfl
theorem DecodeEncode.rdHasnext : DecodeEncode.Statement .rdHasnext := fun _ => rfl
theorem DecodeEncode.rdEntry : DecodeEncode.Statement .rdEntry := fun _ => rfl
theorem DecodeEncode.rdPull : DecodeEncode.Statement .rdPull := fun _ => rfl
theorem DecodeEncode.rdPut : DecodeEncode.Statement .rdPut := fun _ => rfl
theorem DecodeEncode.rdFinish : DecodeEncode.Statement .rdFinish := fun _ => rfl
theorem DecodeEncode.wrOpen : DecodeEncode.Statement .wrOpen := fun _ => rfl
theorem DecodeEncode.wrBegin : DecodeEncode.Statement .wrBegin := fun _ => rfl
theorem DecodeEncode.wrPush : DecodeEncode.Statement .wrPush := fun _ => rfl
theorem DecodeEncode.wrEnd : DecodeEncode.Statement .wrEnd := fun _ => rfl
theorem DecodeEncode.coreReset : DecodeEncode.Statement .coreReset := fun _ => rfl

end Sys2Proof.Laws
end

