-- ==== Sys2Proof/Tests/Slice0.lean ====
section
/-! SUPPORT. Tests. Every expected value is the spec's: the vectors V1 to V19 and the programs P1 to P6 of
95_test_vectors.md, or an example of the rule named. The theorems `witness_…` show a concrete state and operands that
meet the hypotheses of the obligation named, clause by clause. -/

namespace Sys2Proof.Tests

open Sys2Proof Sys2Proof.Machine

/-! ### Small states -/

/-- The machine after power-on reset with these bytes on `IN`. -/
def start (input : List Byte) : State := { State.reset with ports := { input := input, inPos := 0, out := [] } }

/-- `start` in another `SEQ` value. -/
def inSeq (q : Seq) : State := { State.reset with seq := q }

/-- `ARG0 <- a; ARG1 <- b`. -/
def withArgs (a b : Word) (s : State) : State := s.setRegs { s.regs with arg0 := a, arg1 := b }

/-- The PRNG after `PRNG_SEED 718257` and `n` draws (V1). -/
def drawn (n : Nat) : Prng := prngAfter n (prngSeed 0x000AF5B1#32)

/-- A seeded machine, `n` draws on. -/
def seeded (n : Nat) : State := { State.reset with prng := drawn n }

/-- The container `C1` of 95_test_vectors.md. -/
def c1 : List Byte :=
  [0xA0, 0xC8, 0x89, 0xD9, 0x00, 0x0A, 0xF5, 0xB0, 0xBE, 0xFE, 0x61, 0x54, 0x23, 0x25, 0xC6, 0x82, 0x7C, 0xF1, 0x88,
    0x0A, 0xAE, 0xF4, 0x7D]

/-- The reader between the header and the first entry of `C1` (P3, after row 2). -/
def headerRead : State :=
  { start c1 with seq := .rHdr, prng := drawn 6, ports := { input := c1, inPos := 8, out := [] } }

/-- The reader in the entry of `C1` (P3, after row 3), buffered or not. -/
def readingEntry (buffered : Bool) : State :=
  { start c1 with
    seq := .rInEntry
    prng := drawn 8
    sub := { n := 3, cnt := 0 }
    entry := { Entry.reset with csize := 3, dsize := 1, chk := 0x7CF1880A#32, bufLatched := buffered }
    ports := { input := c1, inPos := 20, out := [] } }

/-- The writer in the entry of P2 (after row 2). -/
def writingEntry : State :=
  { State.reset with
    seq := .wInEntry
    prng := drawn 8
    cipher := cipherInit 1#1
    hdr := { hdrChk := 0xA0C889D9#32, hdrSeed := 0x000AF5B0#32, keyR := 1, seedR := 0x000AF5B0#32, hdrDone := true }
    entry := { Entry.reset with mask1 := 0xBEFE6157#32, mask2 := 0x2325C683#32 } }

/-- The writer of P2 after its three `WR_PUSH` (row 5). -/
def pushedEntry : State :=
  { writingEntry with
    cipher := { ck := 0x7CF1880A#32, ckSeeded := true, pos := 3, dir := 1#1 }
    entry := { writingEntry.entry with clen := 3 }
    scratch := [0xAE, 0xF4, 0x7D] }

/-- What a field reads as after a command that completes. -/
def look {α : Type} (i : Instr) (s : State) (f : State → α) : Option α :=
  match exec i s with
  | .next t => some (f t)
  | .fault _ => none
  | .refused _ => none

/-- What a field reads as after one step that completes. -/
def stepLook {α : Type} (s : State) (f : State → α) : Option α :=
  match step s with
  | .next t => some (f t)
  | .fault _ => none
  | .refused _ => none

/-- The fault of an outcome. -/
def faultOf (r : Result) : Option Fault :=
  match r with
  | .next _ => none
  | .fault f => some f
  | .refused _ => none

/-! ### Well-formedness: one ill-formed term for each check -/

theorem test_wf_access : (HostEvent.memRead 0xFFC 4).wf = true := by decide
theorem test_wf_access_width : (HostEvent.memRead 0x010 2).wf = false := by decide
theorem test_wf_access_alignment : (HostEvent.memWrite 0x006 4 0).wf = false := by decide
theorem test_wf_access_outside : (HostEvent.memRead 0x1000 4).wf = false := by decide
theorem test_wf_imm : (Stmt.wr .arg0 0xFFFFFFFF).wf = true ∧ (Stmt.wr .arg0 0x100000000).wf = false := by decide
theorem test_wf_config_imm : (Stmt.config 0x100000000).wf = false := by decide
theorem test_wf_one_operand : (Stmt.cmdArg .ciphEnc 0x41).wf = true ∧ (Stmt.cmdArg .rdFinish 0).wf = false := by decide
theorem test_wf_operand_imm : (Stmt.cmdArg .rdPut 0x100000000).wf = false := by decide
theorem test_wf_wr_open_key : (Stmt.wrOpenArgs 0x100000000 0).wf = false := by decide
theorem test_wf_wr_open_seed : (Stmt.wrOpenArgs 0 0x100000000).wf = false := by decide
theorem test_wf_wr_end_size : (Stmt.wrEndSize 0xFFFFFFFFFFFFFFFF).wf = true ∧
    (Stmt.wrEndSize 0x10000000000000000).wf = false := by decide

/-! ### Decoding: the words of the opcode map (R43) -/

theorem test_decode_system :
    decode 0b00000000000000000000000000000000#32 = .ok .nop ∧
    decode 0b00000000000000000000000011111111#32 = .ok .coreReset := by decide
theorem test_decode_prng :
    decode 0b00000000000000000000000000000001#32 = .ok .prngSeed ∧
    decode 0b00000000000000000000000000000010#32 = .ok .prngNext ∧
    decode 0b00000000000000000000000000000011#32 = .ok .keyChecksum := by decide
theorem test_decode_subrange :
    decode 0b00000000000000000000000000010000#32 = .ok .subOpen ∧
    decode 0b00000000000000000000000000010001#32 = .ok .subRead := by decide
theorem test_decode_cipher :
    decode 0b00000000000000000000000000100000#32 = .ok .ciphInit ∧
    decode 0b00000000000000000000000000100001#32 = .ok .ciphDec ∧
    decode 0b00000000000000000000000000100010#32 = .ok .ciphEnc := by decide
theorem test_decode_reader :
    decode 0b00000000000000000000000000110000#32 = .ok .rdOpen ∧
    decode 0b00000000000000000000000000110001#32 = .ok .rdHasnext ∧
    decode 0b00000000000000000000000000110010#32 = .ok .rdEntry ∧
    decode 0b00000000000000000000000000110011#32 = .ok .rdPull ∧
    decode 0b00000000000000000000000000110100#32 = .ok .rdPut ∧
    decode 0b00000000000000000000000000110101#32 = .ok .rdFinish := by decide
theorem test_decode_writer :
    decode 0b00000000000000000000000001000000#32 = .ok .wrOpen ∧
    decode 0b00000000000000000000000001000001#32 = .ok .wrBegin ∧
    decode 0b00000000000000000000000001000010#32 = .ok .wrPush ∧
    decode 0b00000000000000000000000001000011#32 = .ok .wrEnd := by decide
theorem test_decode_rejects_rsv :
    decode 0x00000100#32 = .error .reservedNonzero ∧ decode 0x000001FF#32 = .error .reservedNonzero ∧
    decode 0x80000000#32 = .error .reservedNonzero := by decide
theorem test_decode_rejects_unassigned :
    decode 0x00000005#32 = .error (.unassignedOpcode 0x05#8) ∧
    decode 0x00000044#32 = .error (.unassignedOpcode 0x44#8) ∧
    decode 0x000000FE#32 = .error (.unassignedOpcode 0xFE#8) := by decide
theorem test_decode_table_word :
    decodeTableWord 32 0x43 = some .wrEnd ∧ decodeTableWord 32 0x100 = none ∧ decodeTableWord 8 0x35 = some .rdFinish := by
  decide
theorem test_encode : encode .rdPull = 0x00000033#32 ∧ encode .coreReset = 0x000000FF#32 := by decide

/-! ### Notation (V6) -/

theorem test_rotr32 :
    rotr32 0x00000001#32 1 = 0x80000000#32 ∧ rotr32 0x80000001#32 7 = 0x03000000#32 ∧
    rotr32 0x12345678#32 4 = 0x81234567#32 := by decide

/-! ### System commands -/

/-- R97: `NOP` after a failed command clears `STATUS.ERR` and leaves `ERR_STICKY`. -/
theorem test_nop :
    look .nop (raise .unseeded State.reset) (fun t => (t.regs.err, t.regs.errSticky)) =
      some (none, 0x00000100#32) := by decide

/-- V19: `CORE_RESET` in the entry of `C1`. -/
theorem test_coreReset :
    look .coreReset (withArgs 1 0 { readingEntry true with scratch := [0x41] })
        (fun t => ((t.seq, t.prng.valid, t.prng.idx), t.ports.inPos, t.regs.arg0, t.scratch)) =
      some ((.idle, false, 0), 20, 1, []) := by decide

/-- R98: `CORE_RESET` keeps `ERR_STICKY` (P4 row 3) and `CONFIG`. -/
theorem test_coreReset_keeps :
    look .coreReset { State.reset with seq := .fault, regs := { HostRegs.powerOn with config := 9, errSticky := 0x22 } }
        (fun t => (t.seq, t.regs.err, t.regs.config, t.regs.errSticky)) =
      some (.idle, none, 9, 0x00000022#32) := by decide

/-! ### PRNG commands -/

/-- V2, the row of 718257. -/
theorem test_prngSeed :
    look .prngSeed (withArgs 0x000AF5B1 0 State.reset) (fun t => (t.prng.word 0, t.prng.word 1, t.prng.word 15)) =
      some (0x000AF5B1#32, 0x45A5A7D6#32, 0xCAAB35B8#32) := by decide

/-- V2: `Seed(0)` gives `W[1]` = 1, and `IDX` is 0. -/
theorem test_prngSeed_zero :
    look .prngSeed State.reset (fun t => (t.prng.word 1, t.prng.word 2, t.prng.idx, t.prng.valid)) =
      some (0x00000001#32, 0x6C078967#32, 0, true) := by decide

/-- V1: the first draw, at `IDX` = 0. -/
theorem test_prngNext :
    look .prngNext (seeded 0) (fun t => (t.regs.res0, t.regs.res1, t.prng.idx)) = some (0x0AEE7004#32, 0, 15) := by
  decide

/-- V1: the twentieth draw. -/
theorem test_prngNext_twentieth :
    look .prngNext (seeded 19) (fun t => (t.regs.res0, t.prng.idx)) = some (0x974F7CDC#32, 12) := by decide

/-- V4: key 1 makes 6 draws. -/
theorem test_keyChecksum :
    look .keyChecksum (withArgs 1 0 (seeded 0)) (fun t => (t.regs.res0, t.prng.idx)) = some (0xA0C889D9#32, 10) := by
  decide

/-- V4: the remainder is of the unsigned key, so 0xFFFFFFFF makes 8 draws. -/
theorem test_keyChecksum_unsigned :
    look .keyChecksum (withArgs 0xFFFFFFFF 0 (seeded 0)) (fun t => (t.regs.res0, t.prng.idx)) =
      some (0x3D132E0D#32, 8) := by decide

/-! ### Sub-range commands -/

/-- R66. -/
theorem test_subOpen :
    look .subOpen (withArgs 2 0 (readingEntry false)) (fun t => (t.sub, t.ports.inPos)) =
      some ({ n := 2, cnt := 0 }, 20) := by decide

/-- V7: a byte of the budget. -/
theorem test_subRead :
    look .subRead { start [0xAA, 0xBB, 0xCC] with sub := { n := 2, cnt := 0 } }
        (fun t => (t.regs.res0, t.regs.res1, t.ports.inPos, t.sub.cnt)) = some (0xAA, 0, 1, 1) := by decide

/-- V7: the end of `IN` before the budget. -/
theorem test_subRead_eod :
    look .subRead { start [] with sub := { n := 5, cnt := 1 } }
        (fun t => (t.regs.res0, t.regs.res1, t.ports.inPos, t.sub.cnt)) = some (0, 1, 0, 1) := by decide

/-! ### Cipher commands -/

/-- R75: only `ARG0[0]` is the direction. -/
theorem test_ciphInit :
    look .ciphInit (withArgs 0xFFFFFFFE 0 pushedEntry) (fun t => t.cipher) =
      some { ck := 0, ckSeeded := false, pos := 0, dir := 0#1 } := by decide

/-- V8: the first byte takes the seeding draw first. -/
theorem test_ciphDec :
    look .ciphDec (seeded 0) (fun t => (t.regs.res0, t.cipher.ck, t.cipher.pos, t.prng.idx)) =
      some (0x13, 0x05773811#32, 1, 14) := by decide

/-- V8: position 16 shifts by 0 again. -/
theorem test_ciphDec_position16 :
    look .ciphDec { seeded 17 with cipher := { ck := 0xB046BCEA#32, ckSeeded := true, pos := 16, dir := 0#1 } }
        (fun t => (t.regs.res0, t.cipher.ck)) = some (0x2F, 0x5608D7B2#32) := by decide

/-- V10: "A" encrypts to 0x52; the high bits of `ARG0` are ignored. -/
theorem test_ciphEnc :
    look .ciphEnc (withArgs 0xFFFFFF41 0 { seeded 0 with cipher := cipherInit 1#1 })
        (fun t => (t.regs.res0, t.cipher.ckSeeded, t.cipher.pos)) = some (0x52, true, 1) := by decide

/-- V9: the last byte. -/
theorem test_ciphEnc_position17 :
    look .ciphEnc (withArgs 0xCA 0
        { seeded 18 with cipher := { ck := 0x5608D7B2#32, ckSeeded := true, pos := 17, dir := 1#1 } })
        (fun t => (t.regs.res0, t.cipher.ck)) = some (0, 0x25608DB1#32) := by decide

/-! ### Reader commands -/

/-- P3 row 1. -/
theorem test_rdOpen :
    look .rdOpen (withArgs 1 0 (start c1))
        (fun t => (t.regs.err, t.seq, t.regs.res0, t.regs.res1, t.prng.idx, t.ports.inPos)) =
      some (none, .rHdr, 0xA0C889D9#32, 0xA0C889D9#32, 10, 8) := by decide

/-- V18: five bytes are no global header. -/
theorem test_rdOpen_truncated :
    look .rdOpen (withArgs 1 0 (start [1, 2, 3, 4, 5]))
        (fun t => (t.regs.err, t.seq, t.ports.inPos, t.prng.valid)) = some (some .truncated, .fault, 5, false) := by decide

/-- P3 row 2. -/
theorem test_rdHasnext :
    look .rdHasnext headerRead (fun t => (t.regs.res0, t.seq)) = some (1, .rHdr) := by decide

/-- P3 row 10. -/
theorem test_rdHasnext_exhausted :
    look .rdHasnext (inSeq .rEntries) (fun t => (t.regs.res0, t.seq)) = some (0, .rExhausted) := by decide

/-- P3 row 3. -/
theorem test_rdEntry :
    look .rdEntry headerRead
        (fun t => ((t.regs.res0, t.regs.res1, t.entry.mask1), t.entry.mask2, t.entry.chk, t.sub.n, t.ports.inPos)) =
      some ((3, 1, 0xBEFE6157#32), 0x2325C683#32, 0x7CF1880A#32, 3, 20) := by decide

/-- V18: five bytes are no entry header. -/
theorem test_rdEntry_truncated :
    look .rdEntry { start [1, 2, 3, 4, 5] with seq := .rEntries } (fun t => (t.regs.err, t.seq, t.ports.inPos)) =
      some (some .truncated, .fault, 5) := by decide

/-- P3 row 4. -/
theorem test_rdPull :
    look .rdPull (readingEntry false) (fun t => (t.regs.res0, t.regs.res1, t.cipher.ck, t.prng.idx, t.ports.inPos)) =
      some (0x73, 0, 0x9E31015F#32, 6, 21) := by decide

/-- P3 row 7: `EOD` at the end of the budget. -/
theorem test_rdPull_eod :
    look .rdPull { readingEntry false with sub := { n := 3, cnt := 3 } }
        (fun t => (t.regs.res0, t.regs.res1, t.prng.idx)) = some (0, 1, 8) := by decide

/-- P3 row 8. -/
theorem test_rdPut :
    look .rdPut (withArgs 0x41 0 (readingEntry false)) (fun t => (t.ports.out, t.entry.copied, t.scratch)) =
      some ([0x41], 1, []) := by decide

/-- P5 row 8 of the buffered program: the byte goes to `SCRATCH`. -/
theorem test_rdPut_buffered :
    look .rdPut (withArgs 0x41 0 (readingEntry true)) (fun t => (t.ports.out, t.entry.copied, t.scratch)) =
      some ([], 1, [0x41]) := by decide

/-- P3 row 9. -/
theorem test_rdFinish :
    look .rdFinish { readingEntry true with
          sub := { n := 3, cnt := 3 }
          cipher := { ck := 0x7CF1880A#32, ckSeeded := true, pos := 3, dir := 0#1 }
          entry := { (readingEntry true).entry with copied := 1 }
          scratch := [0x41] }
        (fun t => ((t.regs.err, t.seq, t.regs.res0), t.regs.res1, t.ports.out, t.scratch)) =
      some ((none, .rEntries, 1), 0x7CF1880A#32, [0x41], []) := by decide

/-- V15, first row: the length check comes first. -/
theorem test_rdFinish_sizeMismatch :
    look .rdFinish { readingEntry false with
          sub := { n := 3, cnt := 1 }
          cipher := { ck := 0x9E31015F#32, ckSeeded := true, pos := 1, dir := 0#1 }
          entry := { (readingEntry false).entry with copied := 1 } }
        (fun t => (t.regs.err, t.seq, t.regs.res0, t.regs.res1)) =
      some (some .sizeMismatch, .rEntries, 1, 0x9E31015F#32) := by decide

/-! ### Writer commands -/

/-- P2 row 1: the PRNG is seeded with 718257. -/
theorem test_wrOpen :
    look .wrOpen (withArgs 1 0x000AF5B0 State.reset)
        (fun t => (t.seq, t.prng.word 0, t.hdr.keyR, t.hdr.seedR, t.ports.out)) =
      some (.wPending, 0x000AF5B1#32, 1, 0x000AF5B0#32, []) := by decide

/-- P2 row 2: the lazy header and the masks. -/
theorem test_wrBegin :
    look .wrBegin { seeded 0 with
          seq := .wPending, hdr := { Header.reset with keyR := 1, seedR := 0x000AF5B0#32 } }
        (fun t => (t.regs.res0, t.regs.res1, t.prng.idx, t.ports.out)) =
      some (0xBEFE6157#32, 0x2325C683#32, 8, [0xA0, 0xC8, 0x89, 0xD9, 0x00, 0x0A, 0xF5, 0xB0]) := by decide

/-- R91: a later `WR_BEGIN` draws two masks only, here draws 1 and 2 of V1. -/
theorem test_wrBegin_later :
    look .wrBegin { seeded 0 with seq := .wEntries, hdr := { Header.reset with hdrDone := true } }
        (fun t => (t.regs.res0, t.regs.res1, t.prng.idx, t.ports.out)) =
      some (0x0AEE7004#32, 0x323EDD13#32, 14, []) := by decide

/-- P2 row 3. -/
theorem test_wrPush :
    look .wrPush (withArgs 0x73 0 writingEntry) (fun t => (t.regs.res0, t.cipher.ck, t.scratch, t.entry.clen)) =
      some (0xAE, 0x9E31015F#32, [0xAE], 1) := by decide

/-- R92: no step when `SCRATCH` is full. -/
theorem test_wrPush_full :
    faultOf (exec .wrPush { writingEntry with scratchCap := some 0 }) = some .scratchFull := by decide

/-- P2 row 6: the header and the payload of the entry of `C1`. -/
theorem test_wrEnd :
    look .wrEnd (withArgs 1 0 pushedEntry) (fun t => (t.regs.res0, t.regs.res1, t.seq, t.ports.out, t.scratch)) =
      some (3, 0x7CF1880A#32, .wEntries, c1.drop 8, []) := by decide

/-- V17: a size of 2^32. -/
theorem test_wrEnd_overflow :
    look .wrEnd (withArgs 0 1 pushedEntry) (fun t => (t.regs.err, t.seq, t.ports.out, t.scratch)) =
      some (some .sizeOverflow, .fault, [], []) := by decide

/-! ### The host port and the step -/

/-- V13: `RSV` is checked before the opcode, so 0x1FF does not reset. -/
theorem test_step_rsv :
    stepLook ((inSeq .wPending).withFetchWord 32 0x1FF) (fun t => (t.regs.err, t.regs.errSticky, t.seq)) =
      some (some .illegalCommand, 0x00000080#32, .wPending) := by decide

/-- V13: `RD_HASNEXT` is refused in `IDLE`. -/
theorem test_step_refused :
    stepLook (State.reset.withFetchWord 32 0x31) (fun t => (t.regs.err, t.regs.errSticky)) =
      some (some .unsupportedOperation, 0x00000020#32) := by decide

/-- P1 row 2, as a write of `CMD`. -/
theorem test_step_runs :
    stepLook ((seeded 0).withFetchWord 32 0x02) (fun t => (t.regs.res0, t.events)) = some (0x0AEE7004#32, []) := by
  decide

/-- R14: `STATUS` of the writer in its entry: `HDR_DONE`, `DIR`, `PRNG_VALID`, `SEQ` = 0xA. -/
theorem test_step_read_status :
    stepLook { writingEntry with events := [.memRead 0x018 4] } (fun t => t.hostReads) = some [0x0000DA00#32] := by decide

/-- R28: only bits [3:0] of `CONFIG` are written. -/
theorem test_step_write_config :
    stepLook { State.reset with events := [.memWrite 0x00C 4 0xFFFFFFF5#32] } (fun t => t.regs.config) = some 5 := by
  decide

/-- R27, R28: a write to `RES0` is ignored, and a reserved offset reads 0. -/
theorem test_step_read_only :
    stepLook { pushedEntry with events := [.memWrite 0x010 4 7] } (fun t => t.regs.res0) = some 0 ∧
    stepLook { pushedEntry with events := [.memRead 0x070 4] } (fun t => t.hostReads) = some [0] := by decide

/-- R29. -/
theorem test_step_irregular :
    faultOf (step { State.reset with events := [.memRead 0x010 1] }) = some .accessWidth ∧
    faultOf (step { State.reset with events := [.memRead 0x012 4] }) = some .accessMisaligned ∧
    faultOf (step { State.reset with events := [.memWrite 0x1000 4 0] }) = some .accessOutsideWindow := by decide

/-- R113: a power-on reset during a run. -/
theorem test_step_powerOnReset :
    stepLook { pushedEntry with regs := { HostRegs.powerOn with errSticky := 0x20 }, events := [.powerOnReset] }
        (fun t => ((t.regs, t.seq, t.cipher), t.hdr, t.entry, t.scratch)) =
      some ((HostRegs.powerOn, .idle, Cipher.reset), Header.reset, Entry.reset, []) := by decide

/-- R53, R54: the encoding of `WR_OPEN 1, 718256` (P2 row 1). -/
theorem test_encodeProgram :
    encodeProgram [.wrOpenArgs 1 718256, .rd .res0] =
      [(0x004, 0x00000001#32), (0x008, 0x000AF5B0#32), (0x000, 0x00000040#32)] := by decide

/-! ### Witnesses: concrete states that meet the hypotheses of the obligations, clause by clause -/

/-- Each range of R44 and R45 at both ends. -/
theorem witness_IllegalWordRaisesAndRunsNothing :
    (0x00000100#32).toNat / 256 ≠ 0 ∧ (0xFFFFFFFF#32).toNat / 256 ≠ 0 ∧
    (∀ w ∈ [0x04#32, 0x0F#32], 0x04 ≤ w.toNat % 256 ∧ w.toNat % 256 ≤ 0x0F) ∧
    (∀ w ∈ [0x12#32, 0x1F#32], 0x12 ≤ w.toNat % 256 ∧ w.toNat % 256 ≤ 0x1F) ∧
    (∀ w ∈ [0x23#32, 0x2F#32], 0x23 ≤ w.toNat % 256 ∧ w.toNat % 256 ≤ 0x2F) ∧
    (∀ w ∈ [0x36#32, 0x3F#32], 0x36 ≤ w.toNat % 256 ∧ w.toNat % 256 ≤ 0x3F) ∧
    (∀ w ∈ [0x44#32, 0xFE#32], 0x44 ≤ w.toNat % 256 ∧ w.toNat % 256 ≤ 0xFE) := by simp

theorem witness_StepRunsTheDecodedCommand :
    (State.reset.withFetchWord 32 0x11).events = [.memWrite 0x000 4 0x00000011#32] ∧
    decode 0x00000011#32 = .ok .subRead := by decide

/-- One command outside its `SEQ` values, and one inside them for each row of the table. -/
theorem witness_CommandOutsideItsSeqIsRefused :
    (let i := Instr.rdPull
     let q := (inSeq .idle).seq
     ¬(i ∈ [.nop, .coreReset, .prngSeed, .prngNext, .keyChecksum, .subOpen, .subRead, .ciphInit, .ciphDec, .ciphEnc] ∨
       i ∈ [.rdOpen, .wrOpen] ∧ q = .idle ∨ i = .rdHasnext ∧ q ∈ [.rHdr, .rEntries, .rInEntry, .rExhausted] ∨
       i = .rdEntry ∧ q ∈ [.rHdr, .rEntries] ∨ i ∈ [.rdPull, .rdPut, .rdFinish] ∧ q = .rInEntry ∨
       i = .wrBegin ∧ q ∈ [.wPending, .wEntries] ∨ i ∈ [.wrPush, .wrEnd] ∧ q = .wInEntry)) ∧
    (∃ t, exec .nop (inSeq .fault) = .next t) ∧ (∃ t, exec .wrOpen (inSeq .idle) = .next t) ∧
    (∃ t, exec .rdHasnext (inSeq .rExhausted) = .next t) ∧ (∃ t, exec .rdEntry (inSeq .rHdr) = .next t) ∧
    (∃ t, exec .rdFinish (inSeq .rInEntry) = .next t) ∧ (∃ t, exec .wrBegin (inSeq .wEntries) = .next t) ∧
    (∃ t, exec .wrEnd (inSeq .wInEntry) = .next t) :=
  ⟨by decide, ⟨_, rfl⟩, ⟨_, rfl⟩, ⟨_, rfl⟩, ⟨_, rfl⟩, ⟨_, rfl⟩, ⟨_, rfl⟩, ⟨_, rfl⟩⟩

/-- Unseeded and seeded: the clauses of the PRNG and the cipher commands. -/
theorem witness_PrngNextMakesOneDraw : State.reset.prng.valid = false ∧ (seeded 0).prng.valid = true := by decide

theorem witness_KeyChecksumXorsItsDraws :
    (withArgs 30 0 State.reset).prng.valid = false ∧ (withArgs 30 0 (seeded 0)).prng.valid = true := by decide

/-- The budget used up, `IN` at its end, and a byte to read. -/
theorem witness_SubReadReturnsNextByteOrEod :
    (start [0xAA]).sub.cnt = (start [0xAA]).sub.n ∧
    (let s := { start [] with sub := { n := 5, cnt := 1 } }
     s.ports.input.length ≤ s.ports.inPos ∧ s.sub.cnt ≠ s.sub.n) ∧
    (let s := { start [0xAA] with sub := { n := 1, cnt := 0 } }
     s.sub.cnt ≠ s.sub.n ∧ s.ports.input[s.ports.inPos]? = some 0xAA) := by decide

/-- The four clauses: the wrong direction, unseeded, the last position, and the position before it. -/
theorem witness_CiphDecDecryptsOneByte :
    pushedEntry.cipher.dir ≠ 0#1 ∧
    (State.reset.cipher.dir = 0#1 ∧ State.reset.prng.valid = false) ∧
    (let s := { seeded 0 with cipher := { ck := 0, ckSeeded := true, pos := 0xFFFFFFFFFFFFFFFF#64, dir := 0#1 } }
     s.cipher.dir = 0#1 ∧ s.prng.valid = true ∧ s.cipher.pos.toNat = 2 ^ 64 - 1) ∧
    (let s := { seeded 0 with cipher := { ck := 0, ckSeeded := true, pos := 0xFFFFFFFFFFFFFFFE#64, dir := 0#1 } }
     s.cipher.dir = 0#1 ∧ s.prng.valid = true ∧ s.cipher.pos.toNat < 2 ^ 64 - 1) := by decide

theorem witness_CiphEncEncryptsOneByte :
    State.reset.cipher.dir ≠ 1#1 ∧
    (let s := { State.reset with cipher := cipherInit 1#1 }
     s.cipher.dir = 1#1 ∧ s.prng.valid = false) ∧
    (let s := { seeded 0 with cipher := { ck := 0, ckSeeded := true, pos := 0xFFFFFFFFFFFFFFFF#64, dir := 1#1 } }
     s.cipher.dir = 1#1 ∧ s.prng.valid = true ∧ s.cipher.pos.toNat = 2 ^ 64 - 1) ∧
    (let s := { seeded 0 with cipher := { ck := 0, ckSeeded := true, pos := 0xFFFFFFFFFFFFFFFE#64, dir := 1#1 } }
     s.cipher.dir = 1#1 ∧ s.prng.valid = true ∧ s.cipher.pos.toNat < 2 ^ 64 - 1) := by decide

/-- Refused; 7 bytes; exactly 8 bytes with the right key, and with a wrong one (P4), enforced and skipped. -/
theorem witness_RdOpenReadsTheGlobalHeader :
    (inSeq .rHdr).seq ≠ .idle ∧
    (let s := start (c1.take 7)
     s.seq = .idle ∧ s.ports.input.length < s.ports.inPos + 8) ∧
    (let s := withArgs 1 0 (start (c1.take 8))
     s.seq = .idle ∧ s.ports.input.drop s.ports.inPos = [0xA0, 0xC8, 0x89, 0xD9, 0x00, 0x0A, 0xF5, 0xB0] ∧
     xorOfDraws (s.regs.arg0.toNat % 31 + 5) (prngSeed (0x000AF5B0#32 ^^^ s.regs.arg0)) = 0xA0C889D9#32) ∧
    (let s := withArgs 2 0 (start (c1.take 8))
     s.seq = .idle ∧ s.ports.input.drop s.ports.inPos = [0xA0, 0xC8, 0x89, 0xD9, 0x00, 0x0A, 0xF5, 0xB0] ∧
     xorOfDraws (s.regs.arg0.toNat % 31 + 5) (prngSeed (0x000AF5B0#32 ^^^ s.regs.arg0)) ≠ 0xA0C889D9#32 ∧
     s.regs.config.getLsbD 0 = false) ∧
    (0x00000001#32).getLsbD 0 = true := by decide

theorem witness_RdHasnextReportsUnreadInput :
    (inSeq .idle).seq ∉ [.rHdr, .rEntries, .rInEntry, .rExhausted] ∧
    (let s := { start [0x01] with seq := .rExhausted }
     s.seq ∈ [.rHdr, .rEntries, .rInEntry, .rExhausted] ∧ s.ports.inPos < s.ports.input.length) ∧
    (let s := inSeq .rHdr
     s.seq ∈ [.rHdr, .rEntries] ∧ s.ports.input.length ≤ s.ports.inPos) ∧
    (let s := inSeq .rInEntry
     s.seq ∈ [.rInEntry, .rExhausted] ∧ s.ports.input.length ≤ s.ports.inPos) := by decide

/-- Refused; 11 bytes; exactly 12 bytes. -/
theorem witness_RdEntryReadsTheEntryHeader :
    (inSeq .rExhausted).seq ∉ [.rHdr, .rEntries] ∧
    (let s := { start (c1.take 11) with seq := .rEntries }
     s.seq ∈ [.rHdr, .rEntries] ∧ s.ports.input.length < s.ports.inPos + 12) ∧
    (let s := { headerRead with ports := { input := c1.take 20, inPos := 8, out := [] } }
     s.seq ∈ [.rHdr, .rEntries] ∧ s.ports.input.drop s.ports.inPos =
       [0xBE, 0xFE, 0x61, 0x54, 0x23, 0x25, 0xC6, 0x82, 0x7C, 0xF1, 0x88, 0x0A]) := by decide

theorem witness_RdPullDecryptsTheNextByte :
    (inSeq .rEntries).seq ≠ .rInEntry ∧
    (let s := { readingEntry false with sub := { n := 3, cnt := 3 } }
     s.seq = .rInEntry ∧ s.sub.cnt = s.sub.n) ∧
    (let s := { readingEntry false with ports := { input := c1, inPos := 23, out := [] } }
     s.seq = .rInEntry ∧ s.ports.input.length ≤ s.ports.inPos) ∧
    (let s := { readingEntry false with
        cipher := { ck := 0, ckSeeded := true, pos := 0xFFFFFFFFFFFFFFFF#64, dir := 0#1 } }
     s.seq = .rInEntry ∧ s.sub.cnt ≠ s.sub.n ∧ s.ports.input[s.ports.inPos]? = some 0xAE ∧
     s.cipher.pos.toNat = 2 ^ 64 - 1) ∧
    (let s := readingEntry false
     s.seq = .rInEntry ∧ s.sub.cnt ≠ s.sub.n ∧ s.ports.input[s.ports.inPos]? = some 0xAE ∧
     s.cipher.pos.toNat < 2 ^ 64 - 1) := by decide

/-- Refused; a byte beyond `E_DSIZE`; the last byte of it, unbuffered, buffered with room, and buffered without. -/
theorem witness_RdPutCopiesAtMostTheDeclaredSize :
    (inSeq .idle).seq ≠ .rInEntry ∧
    (let s := { readingEntry false with entry := { (readingEntry false).entry with copied := 1 } }
     s.seq = .rInEntry ∧ s.entry.dsize.toNat ≤ s.entry.copied.toNat) ∧
    (let s := readingEntry false
     s.seq = .rInEntry ∧ s.entry.copied.toNat < s.entry.dsize.toNat ∧ s.entry.bufLatched = false) ∧
    (let s := readingEntry true
     s.seq = .rInEntry ∧ s.entry.copied.toNat < s.entry.dsize.toNat ∧ s.entry.bufLatched = true ∧
     s.scratchCap = none) ∧
    (let s := { readingEntry true with scratchCap := some 0 }
     s.seq = .rInEntry ∧ s.entry.copied.toNat < s.entry.dsize.toNat ∧ s.entry.bufLatched = true ∧
     s.scratchCap = some 0 ∧ 0 ≤ s.scratch.length) := by decide

/-- Refused; the rows of V15: the length check, the checksum check, and both skipped. -/
theorem witness_RdFinishChecksAndCommits :
    (inSeq .rEntries).seq ≠ .rInEntry ∧
    (let s := readingEntry false
     s.seq = .rInEntry ∧ s.regs.config.getLsbD 2 = false ∧ (s.entry.copied ≠ s.entry.dsize ∨ s.sub.cnt ≠ s.entry.csize)) ∧
    (let s := { readingEntry false with regs := { HostRegs.powerOn with config := 4 } }
     s.seq = .rInEntry ∧
     ¬(s.regs.config.getLsbD 2 = false ∧ (s.entry.copied ≠ s.entry.dsize ∨ s.sub.cnt ≠ s.entry.csize)) ∧
     (s.regs.config.getLsbD 1 = false ∧ s.cipher.ck ≠ s.entry.chk)) ∧
    (let s := { readingEntry true with regs := { HostRegs.powerOn with config := 6 } }
     s.seq = .rInEntry ∧
     ¬(s.regs.config.getLsbD 2 = false ∧ (s.entry.copied ≠ s.entry.dsize ∨ s.sub.cnt ≠ s.entry.csize)) ∧
     ¬(s.regs.config.getLsbD 1 = false ∧ s.cipher.ck ≠ s.entry.chk)) := by decide

theorem witness_WrOpenSeedsAndEmitsNothing : (inSeq .fault).seq ≠ .idle ∧ State.reset.seq = .idle := by decide

theorem witness_WrBeginEmitsHeaderOnceAndDrawsMasks :
    (inSeq .wInEntry).seq ∉ [.wPending, .wEntries] ∧
    (let s := { inSeq .wEntries with hdr := { Header.reset with hdrDone := true } }
     s.seq ∈ [.wPending, .wEntries] ∧ s.hdr.hdrDone = true) ∧
    (let s := inSeq .wPending
     s.seq ∈ [.wPending, .wEntries] ∧ s.hdr.hdrDone = false) := by decide

/-- Refused; room for one byte at the last `POS` and `CLEN` that have a step; and each stuck case. -/
theorem witness_WrPushEncryptsIntoScratch :
    (inSeq .wEntries).seq ≠ .wInEntry ∧
    (let s := { pushedEntry with
        cipher := { ck := 0, ckSeeded := true, pos := 0xFFFFFFFFFFFFFFFE#64, dir := 1#1 }
        entry := { pushedEntry.entry with clen := 0xFFFFFFFFFFFFFFFE#64 }
        scratchCap := some 4 }
     s.seq = .wInEntry ∧ s.cipher.pos.toNat < 2 ^ 64 - 1 ∧ s.entry.clen.toNat < 2 ^ 64 - 1 ∧
     s.scratchCap = some 4 ∧ s.scratch.length < 4) ∧
    (let s := { pushedEntry with cipher := { ck := 0, ckSeeded := true, pos := 0xFFFFFFFFFFFFFFFF#64, dir := 1#1 } }
     s.seq = .wInEntry ∧ s.cipher.pos.toNat = 2 ^ 64 - 1) ∧
    (let s := { pushedEntry with entry := { pushedEntry.entry with clen := 0xFFFFFFFFFFFFFFFF#64 } }
     s.seq = .wInEntry ∧ s.entry.clen.toNat = 2 ^ 64 - 1) ∧
    (let s := { pushedEntry with scratchCap := some 3 }
     s.seq = .wInEntry ∧ s.scratchCap = some 3 ∧ 3 ≤ s.scratch.length) := by decide

/-- Refused; `CLEN` = 2^32; a size of 2^32 (V17); and both at the largest value that fits. -/
theorem witness_WrEndEmitsTheEntry :
    (inSeq .wEntries).seq ≠ .wInEntry ∧
    (let s := { pushedEntry with entry := { pushedEntry.entry with clen := 0x100000000#64 } }
     s.seq = .wInEntry ∧ 0xFFFFFFFF < s.entry.clen.toNat) ∧
    (let s := withArgs 0 1 pushedEntry
     s.seq = .wInEntry ∧ 0xFFFFFFFF < s.regs.arg1.toNat * 2 ^ 32 + s.regs.arg0.toNat) ∧
    (let s := withArgs 0xFFFFFFFF 0 { pushedEntry with entry := { pushedEntry.entry with clen := 0xFFFFFFFF#64 } }
     s.seq = .wInEntry ∧ s.entry.clen.toNat ≤ 0xFFFFFFFF ∧
     s.regs.arg1.toNat * 2 ^ 32 + s.regs.arg0.toNat ≤ 0xFFFFFFFF) := by decide

/-- The first and the last of the sixteen words, seeded and not, and both ends of the two reserved ranges. -/
theorem witness_MemReadReturnsTheMappedRegister :
    (∀ k ∈ [0, 15], k < 16) ∧ (seeded 0).prng.valid = true ∧ State.reset.prng.valid = false ∧
    (∀ addr ∈ [0x070, 0x07C, 0x0C0, 0xFFC], addr % 4 = 0 ∧
      (0x070 ≤ addr ∧ addr < 0x080 ∨ 0x0C0 ≤ addr ∧ addr < 0x1000)) := by decide

theorem witness_MemWriteChangesOnlyItsRegister :
    ∀ addr ∈ [0x010, 0xFFC], addr % 4 = 0 ∧ 0x010 ≤ addr ∧ addr < 0x1000 := by decide

theorem witness_IrregularAccessHasNoStep : (2 : Nat) ≠ 4 ∧ 0xFFF % 4 ≠ 0 ∧ 0x1000 ≤ 0x1000 := by decide

theorem witness_NothingChangesBetweenCommands : pushedEntry.events = [] := by decide

/-- A word that is no command, and each error with the command that raises it. -/
theorem witness_ErrorsComeFromTheirCommands :
    (∀ i : Instr, 0x00000005#32 ≠ encode i) ∧
    stepLook (State.reset.withFetchWord 32 0x05) (fun t => t.regs.err) = some (some .illegalCommand) ∧
    look .rdPull State.reset (fun t => t.regs.err) = some (some .unsupportedOperation) ∧
    look .rdOpen (withArgs 2 0 (start c1)) (fun t => t.regs.err) = some (some .keyChecksum) ∧
    look .rdFinish (readingEntry false) (fun t => t.regs.err) = some (some .sizeMismatch) ∧
    look .rdFinish { readingEntry false with regs := { HostRegs.powerOn with config := 4 } } (fun t => t.regs.err) =
      some (some .entryChecksum) ∧
    look .wrEnd (withArgs 0 1 pushedEntry) (fun t => t.regs.err) = some (some .sizeOverflow) ∧
    look .rdEntry (inSeq .rHdr) (fun t => t.regs.err) = some (some .truncated) ∧
    look .prngNext State.reset (fun t => t.regs.err) = some (some .unseeded) :=
  ⟨fun i => by cases i <;> decide, by decide, by decide, by decide, by decide, by decide, by decide, by decide, by decide⟩

/-- A command-level error, an entry-level error and a stream-level error. -/
theorem witness_CommandLevelErrorChangesNothingElse :
    ∃ t, step { pushedEntry with events := .memWrite 0x000 4 0x00000031#32 :: [] } = .next t ∧
      t.regs.err ∈ [some .illegalCommand, some .unsupportedOperation, some .unseeded] := ⟨_, rfl, by decide⟩

theorem witness_EntryLevelErrorEndsTheEntryOnly :
    ∃ t, exec .rdFinish (readingEntry false) = .next t ∧ t.regs.err ∈ [some .sizeMismatch, some .entryChecksum] :=
  ⟨_, rfl, by decide⟩

theorem witness_StreamLevelErrorFaultsTheContainer :
    ∃ t, exec .rdEntry (inSeq .rHdr) = .next t ∧
      t.regs.err ∈ [some .keyChecksum, some .truncated, some .sizeOverflow] := ⟨_, rfl, by decide⟩

theorem witness_OnlyCoreResetLeavesFault :
    (inSeq .fault).seq = .fault ∧ (∃ t, exec .rdOpen (inSeq .fault) = .next t) ∧
    (∃ t, exec .coreReset (inSeq .fault) = .next t) := ⟨rfl, ⟨_, rfl⟩, ⟨_, rfl⟩⟩

theorem witness_ErrStickyRemembersEveryError :
    (∃ t, step { State.reset with events := .memWrite 0x000 4 0x00000005#32 :: [] } = .next t) ∧
    ((0x01C : Nat) ≠ 0x000 ∧ ∃ t, step { State.reset with events := .memWrite 0x01C 4 0xFFFFFFFF#32 :: [] } = .next t) ∧
    (∃ t, step { State.reset with events := .memRead 0x01C 4 :: [] } = .next t) ∧
    (∃ t, step { State.reset with events := .powerOnReset :: [] } = .next t) :=
  ⟨⟨_, rfl⟩, ⟨by decide, ⟨_, rfl⟩⟩, ⟨_, rfl⟩, ⟨_, rfl⟩⟩

theorem witness_EveryCommandCompletesUnlessStuck :
    let s := { pushedEntry with
      cipher := { ck := 0, ckSeeded := true, pos := 0xFFFFFFFFFFFFFFFE#64, dir := 1#1 }
      entry := { pushedEntry.entry with clen := 0xFFFFFFFFFFFFFFFE#64 }
      scratchCap := some 4 }
    s.cipher.pos.toNat < 2 ^ 64 - 1 ∧ s.entry.clen.toNat < 2 ^ 64 - 1 ∧ s.scratchCap = some 4 ∧
    s.scratch.length < 4 := by decide

theorem witness_OutputIsOnlyAppendedTo :
    (∃ t, step { pushedEntry with events := .memWrite 0x000 4 0x00000043#32 :: [] } = .next t) ∧
    (∃ t, exec .coreReset pushedEntry = .next t) ∧ Instr.coreReset ∉ [.rdPut, .rdFinish, .wrBegin, .wrEnd] :=
  ⟨⟨_, rfl⟩, ⟨_, rfl⟩, by decide⟩

theorem witness_InputIsConsumedForwardOnly :
    (∃ t, step { start [1] with events := .memWrite 0x000 4 0x00000030#32 :: [] } = .next t) ∧
    (∃ t, exec .coreReset headerRead = .next t) ∧ Instr.coreReset ∉ [.rdOpen, .rdEntry, .subRead, .rdPull] :=
  ⟨⟨_, rfl⟩, ⟨_, rfl⟩, by decide⟩

theorem witness_CommandsNeverWriteOperands : ∃ t, exec .wrEnd (withArgs 1 0 pushedEntry) = .next t := ⟨_, rfl⟩

/-- A command that reads a toggle, and `CORE_RESET`, of whose words nothing is said. -/
theorem witness_TogglesNeverChangeADraw :
    ((∃ t, exec .rdFinish (readingEntry true) = .next t) ∧ Instr.rdFinish ≠ .coreReset) ∧
    (∃ t, exec .coreReset (readingEntry true) = .next t) := ⟨⟨⟨_, rfl⟩, by decide⟩, ⟨_, rfl⟩⟩

theorem witness_OtherCommandsChangeThePrngByDrawing :
    (∃ t, exec .nop (seeded 0) = .next t) ∧ Instr.nop ∉ [.prngSeed, .rdOpen, .wrOpen, .coreReset] :=
  ⟨⟨_, rfl⟩, by decide⟩

theorem witness_PullingDrawsOncePerByteWithinTheBudget :
    (readingEntry false).seq = .rInEntry ∧ (readingEntry false).sub.cnt = 0 ∧
    (readingEntry false).cipher.ckSeeded = false ∧ (readingEntry false).cipher.pos = 0 := by decide

theorem witness_PendingWriterEmitsNothing :
    (inSeq .wPending).seq = .wPending ∧ (∃ t, exec .nop (inSeq .wPending) = .next t) ∧ Instr.nop ≠ .wrBegin :=
  ⟨rfl, ⟨_, rfl⟩, by decide⟩

theorem witness_DecryptInvertsEncrypt : (seeded 0).prng.valid = true ∧ ([0x41, 0x42] : List Byte).length < 2 ^ 64 := by
  decide

theorem witness_StreamDrawsDependOnItsLengthOnly : (seeded 0).prng.valid = true ∧ ([] : List Byte).length < 2 ^ 64 := by
  decide

theorem witness_OneTamperedByteChangesTheChecksum :
    (seeded 0).prng.valid = true ∧ ([0xAE, 0xF4, 0x7D] : List Byte).length < 2 ^ 64 ∧
    2 < ([0xAE, 0xF4, 0x7D] : List Byte).length ∧ ([0xAE, 0xF4, 0x7D] : List Byte).getD 2 0 ≠ 0x7C := by decide

/-- Both values of `SEQ`, with and without a payload. -/
theorem witness_WriterDrawsAndBytesPerEntry :
    (inSeq .wPending).seq ∈ [.wPending, .wEntries] ∧ (inSeq .wEntries).seq ∈ [.wPending, .wEntries] ∧
    (inSeq .wPending).scratchCap = none ∧
    ({ inSeq .wEntries with scratchCap := some 3 }).scratchCap = some 3 ∧ ([0x73, 0x04, 0x00] : List Byte).length ≤ 3 ∧
    (∀ e ∈ [({ packed := [], text := [] } : EntryData), { packed := [0x73, 0x04, 0x00], text := [0x41] }],
      e.packed.length ≤ 0xFFFFFFFF ∧ e.text.length ≤ 0xFFFFFFFF) := by decide

/-- The entry of P2 and P3: the writer's `OUT` is `C1` (P2), the reader's `INPUT`. -/
theorem witness_ReaderRecoversWhatTheWriterWrote :
    let es : List EntryData := [{ packed := [0x73, 0x04, 0x00], text := [0x41] }]
    let w0 := { State.reset with scratchCap := some 3 }
    let r0 := { start c1 with scratchCap := some 1 }
    (es ≠ [] ∧ (∀ e ∈ es, e.packed.length ≤ 0xFFFFFFFF ∧ e.text.length ≤ 0xFFFFFFFF)) ∧
    (w0.seq = .idle ∧ (∀ cap, w0.scratchCap = some cap → ∀ e ∈ es, e.packed.length ≤ cap) ∧ w0.ports.out = [] ∧
      w0.hostReads = [] ∧ w0.regs.errSticky = 0) ∧
    (r0.seq = .idle ∧ (∀ cap, r0.scratchCap = some cap → ∀ e ∈ es, e.text.length ≤ cap) ∧ r0.ports.inPos = 0 ∧
      r0.hostReads = [] ∧ r0.regs.errSticky = 0) ∧
    (match runProgram (writeContainer 1#32 0x000AF5B0#32 es) w0 with
      | .next w => some (w.ports.out, w.hostReads)
      | .fault _ => none
      | .refused _ => none) = some (r0.ports.input, [0x7CF1880A#32]) :=
  ⟨by decide, ⟨rfl, by rintro cap ⟨⟩; decide, rfl, rfl, rfl⟩, ⟨rfl, by rintro cap ⟨⟩; decide, rfl, rfl, rfl⟩, by decide⟩

/-- The invariant holds in a state other than reset: the writer of P2 with its payload in `SCRATCH`. -/
theorem witness_EveryStepKeepsTheInvariant :
    State.Inv { pushedEntry with scratchCap := some 3, events := [.memWrite 0x000 4 0x00000043#32] } ∧
    ∃ t, step { pushedEntry with scratchCap := some 3, events := [.memWrite 0x000 4 0x00000043#32] } = .next t :=
  ⟨{ subBudget := by decide, inBounds := by decide, scratchFits := by rintro cap ⟨⟩; decide, stickyBits := by decide,
     configBits := by decide, openSeeded := by decide, unseededIdx := by decide, headerOut := by decide,
     copiedCapped := by decide, scratchIdle := by decide, scratchReader := by decide, scratchWriter := by decide },
   ⟨_, rfl⟩⟩

/-- The invariant holds in the buffered reader entry too, with a byte copied. -/
theorem witness_Inv_reader :
    State.Inv { readingEntry true with
      entry := { (readingEntry true).entry with copied := 1 }, scratch := [0x41] } :=
  { subBudget := by decide, inBounds := by decide, scratchFits := by rintro cap ⟨⟩, stickyBits := by decide,
    configBits := by decide, openSeeded := by decide, unseededIdx := by decide, headerOut := by decide,
    copiedCapped := by decide, scratchIdle := by decide, scratchReader := by decide, scratchWriter := by decide }

theorem witness_UnseededWordsAreNeverObserved :
    State.Inv { State.reset with events := [.memRead 0x080 4] } ∧ State.reset.prng.valid = false ∧
    ∃ t, step { State.reset with events := [.memRead 0x080 4] } = .next t :=
  ⟨{ subBudget := by decide, inBounds := by decide, scratchFits := by rintro cap ⟨⟩, stickyBits := by decide,
     configBits := by decide, openSeeded := by decide, unseededIdx := by decide, headerOut := by decide,
     copiedCapped := by decide, scratchIdle := by decide, scratchReader := by decide, scratchWriter := by decide },
   rfl, ⟨_, rfl⟩⟩

theorem witness_RotateRightMovesLowBitsHigh :
    ∀ n ∈ [1, 7], ∀ i ∈ [0, 31], 1 ≤ n ∧ n ≤ 7 ∧ i < 32 := by decide

theorem witness_WellFormedProgramsAssembleToAccesses :
    (∀ st ∈ [Stmt.cmdArg .ciphDec 0xFFFFFFFF, .rd .res0], st.wf = true) ∧
    HostEvent.memRead 0x010 4 ∈ assemble [.cmdArg .ciphDec 0xFFFFFFFF, .rd .res0] ∧
    (let e := HostEvent.memWrite 0x000 4 0x00000042#32
     let s := { writingEntry with scratchCap := some 0, events := [e] }
     e.wf = true ∧ faultOf (step s) = some .scratchFull) ∧
    Instr.prngSeed.oneOperand = true ∧ Instr.wrPush.oneOperand = true ∧
    0xFFFFFFFFFFFFFFFF < 2 ^ 64 := by decide

end Sys2Proof.Tests
end

namespace Sys2Proof.Proofs

open Sys2Proof.Machine

/-- Every bit of the rotated word comes from `n` places further up, cyclically: below bit `32 - n` it is shifted down,
from there on it is one of the `n` low bits, wrapped round. -/
theorem getLsbD_rotr32 (x : Word) (n i : Nat) (hn : n < 32) (hi : i < 32) :
    (rotr32 x n).getLsbD i = x.getLsbD ((i + n) % 32) := by
  rw [rotr32_eq_rotateRight x n hn, BitVec.getLsbD_rotateRight, Nat.mod_eq_of_lt hn]
  by_cases hlow : i < 32 - n
  · have hsrc : (i + n) % 32 = n + i := by omega
    simp [hlow, hsrc]
  · have hsrc : (i + n) % 32 = i - (32 - n) := by omega
    simp [hlow, hsrc, hi]

/-- Settles O56: the shift form is `rotr32`'s definition (R6), the bits are those of the rotation. -/
theorem rotateRightMovesLowBitsHigh : Obligations.RotateRightMovesLowBitsHigh := by
  intro x n i _ hn hi
  exact ⟨rfl, getLsbD_rotr32 x n i (by omega) hi⟩

end Sys2Proof.Proofs

namespace Sys2Proof.Proofs

open Sys2Proof.Machine

/-! ### What each rule can do

One lemma per rule with a branch: every outcome it has, with its guard. Later proofs cite these and do not open a rule
again. -/

/-- `IN_POS` and `SUB_CNT` one further: the state once a byte has been taken through the sub-range. -/
def byteTaken (s : State) : State :=
  (s.setSub { s.sub with cnt := s.sub.cnt + 1 }).setPorts { s.ports with inPos := s.ports.inPos + 1 }

@[simp] theorem afterByte_valid (s : State) (plain : Byte) : (s.afterByte plain).prng.valid = s.prng.valid := by
  cases hs : s.cipher.ckSeeded <;> simp [State.afterByte, State.byteSeed, hs]

/-- A byte of a stream has no step at the end of `POS`, and nowhere else (R73). -/
theorem decryptByte_eq_none (b : Byte) (s : State) :
    decryptByte b s.prng s.cipher = none ↔ s.cipher.pos = BitVec.allOnes 64 := by
  rw [decryptByte_spec]
  split <;> simp only [*, reduceCtorEq]

theorem encryptByte_eq_none (b : Byte) (s : State) :
    encryptByte b s.prng s.cipher = none ↔ s.cipher.pos = BitVec.allOnes 64 := by
  rw [encryptByte_spec]
  split <;> simp only [*, reduceCtorEq]

/-- A byte of a stream draws, and does not touch `PRNG_VALID` (R70, R71). -/
theorem decryptByte_valid {b out : Byte} {s : State} {q : Prng} {c : Cipher}
    (h : decryptByte b s.prng s.cipher = some (out, q, c)) : q.valid = s.prng.valid := by
  rw [decryptByte_spec, Option.ite_none_left_eq_some] at h
  obtain ⟨_, ⟨⟩⟩ := h
  exact afterByte_valid s _

theorem encryptByte_valid {b out : Byte} {s : State} {q : Prng} {c : Cipher}
    (h : encryptByte b s.prng s.cipher = some (out, q, c)) : q.valid = s.prng.valid := by
  rw [encryptByte_spec, Option.ite_none_left_eq_some] at h
  obtain ⟨_, ⟨⟩⟩ := h
  exact afterByte_valid s _

theorem scratchAppend_of_room (b : Byte) {s : State}
    (hroom : ∀ cap, s.scratchCap = some cap → s.scratch.length < cap) :
    scratchAppend b s = some (s.setScratch (s.scratch ++ [b])) := by
  rcases scratchAppend_cases b s with ⟨_, h⟩ | ⟨cap, hcap, hfull, _⟩
  · exact h
  · exact absurd (hroom cap hcap) (Nat.not_lt.2 hfull)

theorem scratchAppend_of_full (b : Byte) {s : State} {cap : Nat} (hcap : s.scratchCap = some cap)
    (hfull : cap ≤ s.scratch.length) : scratchAppend b s = none := by
  rcases scratchAppend_cases b s with ⟨hroom, _⟩ | ⟨_, _, _, h⟩
  · exact absurd (hroom cap hcap) (Nat.not_lt.2 hfull)
  · exact h

theorem prngNextRule_cases (s : State) :
    (s.prng.valid = false ∧ prngNextRule s = .next (raise .unseeded s)) ∨
    (s.prng.valid = true ∧
      prngNextRule s = .next ((s.setPrng (prngNext s.prng).2).setRes (prngNext s.prng).1 0)) := by
  cases h : s.prng.valid <;> simp [prngNextRule, h]

theorem keyChecksumRule_cases (s : State) :
    (s.prng.valid = false ∧ keyChecksumRule s = .next (raise .unseeded s)) ∨
    (s.prng.valid = true ∧ keyChecksumRule s =
      .next ((s.setPrng (keyChecksum (argWord s) s.prng).2).setRes (keyChecksum (argWord s) s.prng).1 0)) := by
  cases h : s.prng.valid <;> simp [keyChecksumRule, h]

theorem subReadRule_cases (s : State) :
    ((s.sub.cnt = s.sub.n ∨ s.ports.input.length ≤ s.ports.inPos) ∧ subReadRule s = .next (resEod s)) ∨
    (s.sub.cnt ≠ s.sub.n ∧ s.ports.inPos < s.ports.input.length ∧ ∃ b,
      subReadRule s = .next (resByte b (byteTaken s))) := by
  rcases subRead_cases s.sub s.ports with ⟨hend, hr⟩ | ⟨hne, b, hb, hr⟩
  · exact .inl ⟨hend, by simp [subReadRule, hr]⟩
  · exact .inr ⟨hne, (List.getElem?_eq_some_iff.1 hb).1, b, by simp [subReadRule, hr, byteTaken]⟩

theorem ciphDecRule_cases (s : State) :
    (s.cipher.dir ≠ 0#1 ∧ ciphDecRule s = .next (raise .unsupportedOperation s)) ∨
    (s.cipher.dir = 0#1 ∧ s.prng.valid = false ∧ ciphDecRule s = .next (raise .unseeded s)) ∨
    (s.cipher.dir = 0#1 ∧ s.prng.valid = true ∧
      ciphDecRule s = cipherResult (decryptByte (argByte s) s.prng s.cipher) s) := by
  by_cases hd : s.cipher.dir = 0#1 <;> cases hv : s.prng.valid <;> simp [ciphDecRule, hd, hv]

theorem ciphEncRule_cases (s : State) :
    (s.cipher.dir ≠ 1#1 ∧ ciphEncRule s = .next (raise .unsupportedOperation s)) ∨
    (s.cipher.dir = 1#1 ∧ s.prng.valid = false ∧ ciphEncRule s = .next (raise .unseeded s)) ∨
    (s.cipher.dir = 1#1 ∧ s.prng.valid = true ∧
      ciphEncRule s = cipherResult (encryptByte (argByte s) s.prng s.cipher) s) := by
  by_cases hd : s.cipher.dir = 1#1 <;> cases hv : s.prng.valid <;> simp [ciphEncRule, hd, hv]

/-- The state in which `RD_OPEN` has read a full header, seeded and made the key-checksum draws (R79); what is left is
the comparison and `SEQ`. -/
def headerTaken (s : State) : State :=
  let chk := inRead32 s.ports
  let seed := inRead32 chk.2
  let kc := keyChecksum (argWord s) (prngSeed (seed.1 ^^^ argWord s))
  let hdr := { s.hdr with hdrChk := chk.1, hdrSeed := seed.1, keyR := argWord s, seedR := seed.1 }
  (((s.setPorts seed.2).setHdr hdr).setPrng kc.2).setRes kc.1 chk.1

/-- The comparison of `RD_OPEN` fails: the two checksums, which are its results, differ, and no toggle skips it. -/
def headerBad (s : State) : Prop :=
  (headerTaken s).regs.res0 ≠ (headerTaken s).regs.res1 ∧ skipKeyChk s.regs.config = false

theorem rdOpenRule_cases (s : State) :
    (inAvail s.ports < 8 ∧ rdOpenRule s = .next (raiseTruncated s)) ∨
    (8 ≤ inAvail s.ports ∧ ¬headerBad s ∧ rdOpenRule s = .next ((headerTaken s).setSeq .rHdr)) ∨
    (8 ≤ inAvail s.ports ∧ headerBad s ∧
      rdOpenRule s = .next (raise .keyChecksum ((headerTaken s).setSeq .fault))) := by
  by_cases hlen : inAvail s.ports < 8
  · exact .inl ⟨hlen, if_pos hlen⟩
  · by_cases hbad : headerBad s
    · exact .inr (.inr ⟨by omega, hbad, (if_neg hlen).trans (if_pos hbad)⟩)
    · exact .inr (.inl ⟨by omega, hbad, (if_neg hlen).trans (if_neg hbad)⟩)

theorem rdHasnextRule_cases (s : State) :
    (0 < inAvail s.ports ∧ rdHasnextRule s = .next (s.setRes 1 0)) ∨
    (inAvail s.ports = 0 ∧ (s.seq = .rHdr ∨ s.seq = .rEntries) ∧
      rdHasnextRule s = .next ((s.setRes 0 0).setSeq .rExhausted)) ∨
    (inAvail s.ports = 0 ∧ ¬(s.seq = .rHdr ∨ s.seq = .rEntries) ∧ rdHasnextRule s = .next (s.setRes 0 0)) := by
  unfold rdHasnextRule
  by_cases h : 0 < inAvail s.ports
  · exact .inl ⟨h, if_pos h⟩
  · rw [if_neg h]
    by_cases hq : s.seq = .rHdr ∨ s.seq = .rEntries
    · exact .inr (.inl ⟨by omega, hq, if_pos hq⟩)
    · exact .inr (.inr ⟨by omega, hq, if_neg hq⟩)

/-- The entry registers as `RD_ENTRY` fills them from the three fields and the two masks (R81). -/
def entryFields (s : State) : Entry :=
  let f0 := inRead32 s.ports
  let f1 := inRead32 f0.2
  let m1 := prngNext s.prng
  let m2 := prngNext m1.2
  { s.entry with
    csize := f0.1 ^^^ m1.1
    dsize := f1.1 ^^^ m2.1
    chk := (inRead32 f1.2).1
    copied := 0
    mask1 := m1.1
    mask2 := m2.1
    bufLatched := bufCommit s.regs.config }

/-- The state `RD_ENTRY` leaves when it has read a full entry header (R81). -/
def entryOpened (s : State) : State :=
  let e := entryFields s
  let t := ((s.setPorts { s.ports with inPos := s.ports.inPos + 12 }).setPrng (prngAfter 2 s.prng)).setEntry e
  ((((t.setSub (subOpen e.csize)).setCipher (cipherInit 0#1)).setScratch []).setRes e.csize e.dsize).setSeq .rInEntry

theorem rdEntryRule_cases (s : State) :
    (inAvail s.ports < 12 ∧ rdEntryRule s = .next (raiseTruncated s)) ∨
    (12 ≤ inAvail s.ports ∧ rdEntryRule s = .next (entryOpened s)) := by
  unfold rdEntryRule
  by_cases h : inAvail s.ports < 12
  · exact .inl ⟨h, if_pos h⟩
  · exact .inr ⟨by omega, if_neg h⟩

theorem rdPullRule_cases (s : State) :
    ((s.sub.cnt = s.sub.n ∨ s.ports.input.length ≤ s.ports.inPos) ∧ rdPullRule s = .next (resEod s)) ∨
    (s.sub.cnt ≠ s.sub.n ∧ s.ports.inPos < s.ports.input.length ∧ ∃ b,
      rdPullRule s = cipherResult (decryptByte b s.prng s.cipher) (byteTaken s)) := by
  rcases subRead_cases s.sub s.ports with ⟨hend, hr⟩ | ⟨hne, b, hb, hr⟩
  · exact .inl ⟨hend, by simp [rdPullRule, hr]⟩
  · exact .inr ⟨hne, (List.getElem?_eq_some_iff.1 hb).1, b, by simp [rdPullRule, hr, byteTaken]⟩

/-- `COPIED` one further. -/
def byteCopied (s : State) : State := s.setEntry { s.entry with copied := s.entry.copied + 1 }

theorem rdPutRule_of_dropped {s : State} (h : s.entry.dsize ≤ s.entry.copied) : rdPutRule s = .next s :=
  if_neg (BitVec.not_lt.2 h)

theorem rdPutRule_of_unbuffered {s : State} (hlt : s.entry.copied < s.entry.dsize) (hb : s.entry.bufLatched = false) :
    rdPutRule s = .next ((byteCopied s).setPorts (outWrite [argByte s] s.ports)) :=
  (if_pos hlt).trans (if_neg (by simp [hb]))

theorem rdPutRule_of_room {s : State} (hlt : s.entry.copied < s.entry.dsize) (hb : s.entry.bufLatched = true)
    (hroom : ∀ cap, s.scratchCap = some cap → s.scratch.length < cap) :
    rdPutRule s = .next ((byteCopied s).setScratch (s.scratch ++ [argByte s])) := by
  have ha := scratchAppend_of_room (argByte s) (s := byteCopied s) hroom
  rw [byteCopied] at ha ⊢
  rw [rdPutRule, if_pos hlt]
  refine (if_pos hb).trans ?_
  rw [ha]
  rfl

theorem rdPutRule_of_full {s : State} (hlt : s.entry.copied < s.entry.dsize) (hb : s.entry.bufLatched = true)
    {cap : Nat} (hcap : s.scratchCap = some cap) (hfull : cap ≤ s.scratch.length) :
    rdPutRule s = .fault .scratchFull := by
  have ha := scratchAppend_of_full (argByte s) (s := byteCopied s) hcap hfull
  rw [byteCopied] at ha
  rw [rdPutRule, if_pos hlt]
  refine (if_pos hb).trans ?_
  rw [ha]

/-- `SCRATCH` has room for a byte, or it is full. -/
theorem scratch_room_or_full (s : State) :
    (∀ cap, s.scratchCap = some cap → s.scratch.length < cap) ∨
    (∃ cap, s.scratchCap = some cap ∧ cap ≤ s.scratch.length) := by
  by_cases h : ∃ cap, s.scratchCap = some cap ∧ cap ≤ s.scratch.length
  · exact .inr h
  · exact .inl fun cap hcap => Nat.lt_of_not_le fun hle => h ⟨cap, hcap, hle⟩

theorem rdPutRule_cases (s : State) :
    (s.entry.dsize ≤ s.entry.copied ∧ rdPutRule s = .next s) ∨
    (s.entry.copied < s.entry.dsize ∧ s.entry.bufLatched = false ∧
      rdPutRule s = .next ((byteCopied s).setPorts (outWrite [argByte s] s.ports))) ∨
    (s.entry.copied < s.entry.dsize ∧ s.entry.bufLatched = true ∧
      (∀ cap, s.scratchCap = some cap → s.scratch.length < cap) ∧
      rdPutRule s = .next ((byteCopied s).setScratch (s.scratch ++ [argByte s]))) ∨
    (s.entry.copied < s.entry.dsize ∧ s.entry.bufLatched = true ∧
      (∃ cap, s.scratchCap = some cap ∧ cap ≤ s.scratch.length) ∧ rdPutRule s = .fault .scratchFull) := by
  by_cases hlt : s.entry.copied < s.entry.dsize
  · cases hb : s.entry.bufLatched with
    | false => exact .inr (.inl ⟨hlt, rfl, rdPutRule_of_unbuffered hlt hb⟩)
    | true =>
      rcases scratch_room_or_full s with hroom | ⟨cap, hcap, hfull⟩
      · exact .inr (.inr (.inl ⟨hlt, rfl, hroom, rdPutRule_of_room hlt hb hroom⟩))
      · exact .inr (.inr (.inr ⟨hlt, rfl, ⟨cap, hcap, hfull⟩, rdPutRule_of_full hlt hb hcap hfull⟩))
  · exact .inl ⟨BitVec.not_lt.1 hlt, rdPutRule_of_dropped (BitVec.not_lt.1 hlt)⟩

/-- The state at the end of a reader entry, but for the error and the commit (R84). -/
def entryFinished (s : State) : State :=
  ((s.setRes s.entry.copied s.cipher.ck).setScratch []).setSeq .rEntries

theorem rdFinishRule_cases (s : State) :
    (∃ e, finishError s = some e ∧ rdFinishRule s = .next (raise e (entryFinished s))) ∨
    (finishError s = none ∧ rdFinishRule s = .next ((entryFinished s).setPorts
      (outWrite (if s.entry.bufLatched then s.scratch else []) s.ports))) := by
  cases hf : finishError s with
  | some e => exact .inl ⟨e, rfl, by simp [rdFinishRule, hf, entryFinished]⟩
  | none =>
    refine .inr ⟨rfl, ?_⟩
    cases hb : s.entry.bufLatched <;> simp [rdFinishRule, hf, hb, entryFinished, outWrite]
    rfl

/-- The lazy global header writes the header registers, `OUT` and the PRNG, which it advances by drawing. -/
theorem emitHeader_cases (s : State) :
    (s.hdr.hdrDone = true ∧ emitHeader s = s) ∨
    (s.hdr.hdrDone = false ∧ ∃ n hdr bs, hdr.hdrDone = true ∧
      emitHeader s = ((s.setPrng (prngAfter n s.prng)).setHdr hdr).setPorts (outWrite bs s.ports)) := by
  cases h : s.hdr.hdrDone with
  | true => exact .inl ⟨rfl, by simp [emitHeader, h]⟩
  | false =>
    have hneg : ¬s.hdr.hdrDone = true := by simp [h]
    exact .inr ⟨rfl, _, _, _, rfl, by rw [emitHeader, if_neg hneg, keyChecksum_spec]⟩

/-- The state `WR_BEGIN` leaves, from the state with the global header out (R91). -/
def entryBegun (s : State) : State :=
  let m1 := prngNext s.prng
  let m2 := prngNext m1.2
  let t := (s.setPrng m2.2).setEntry { s.entry with mask1 := m1.1, mask2 := m2.1, clen := 0 }
  (((t.setCipher (cipherInit 1#1)).setScratch []).setRes m1.1 m2.1).setSeq .wInEntry

theorem wrBeginRule_eq (s : State) : wrBeginRule s = .next (entryBegun (emitHeader s)) := rfl

/-- The state `WR_PUSH` leaves when the plain byte went out as `out`, with the PRNG and the cipher after it (R92). -/
def bytePushed (out : Byte) (q : Prng) (c : Cipher) (s : State) : State :=
  resByte out ((((s.setPrng q).setCipher c).setScratch (s.scratch ++ [out])).setEntry
    { s.entry with clen := s.entry.clen + 1 })

theorem wrPushRule_of_room {s : State} {out : Byte} {q : Prng} {c : Cipher}
    (henc : encryptByte (argByte s) s.prng s.cipher = some (out, q, c))
    (hroom : ∀ cap, s.scratchCap = some cap → s.scratch.length < cap) (hclen : s.entry.clen ≠ BitVec.allOnes 64) :
    wrPushRule s = .next (bytePushed out q c s) := by
  have ha := scratchAppend_of_room out (s := (s.setPrng q).setCipher c) hroom
  simp only [wrPushRule, henc, ha, if_neg hclen]
  rfl

theorem wrPushRule_cases (s : State) :
    (∃ out q c, encryptByte (argByte s) s.prng s.cipher = some (out, q, c) ∧
      (∀ cap, s.scratchCap = some cap → s.scratch.length < cap) ∧ s.entry.clen ≠ BitVec.allOnes 64 ∧
      wrPushRule s = .next (bytePushed out q c s)) ∨
    ((s.cipher.pos = BitVec.allOnes 64 ∨ s.entry.clen = BitVec.allOnes 64 ∨
      ∃ cap, s.scratchCap = some cap ∧ cap ≤ s.scratch.length) ∧ ∃ f, wrPushRule s = .fault f) := by
  rcases he : encryptByte (argByte s) s.prng s.cipher with _ | ⟨out, q, c⟩
  · exact .inr ⟨.inl ((encryptByte_eq_none _ s).1 he), .posExhausted, by simp [wrPushRule, he]⟩
  · rcases scratch_room_or_full s with hroom | ⟨cap, hcap, hfull⟩
    · by_cases hc : s.entry.clen = BitVec.allOnes 64
      · have ha := scratchAppend_of_room out (s := (s.setPrng q).setCipher c) hroom
        exact .inr ⟨.inr (.inl hc), .clenExhausted, by simp [wrPushRule, he, ha, hc]⟩
      · exact .inl ⟨out, q, c, rfl, hroom, hc, wrPushRule_of_room he hroom hc⟩
    · have ha := scratchAppend_of_full out (s := (s.setPrng q).setCipher c) hcap hfull
      exact .inr ⟨.inr (.inr ⟨cap, hcap, hfull⟩), .scratchFull, by simp [wrPushRule, he, ha]⟩

/-- The state `WR_END` leaves when both sizes fit (R93). -/
def entryEnded (s : State) : State :=
  let csize := lo32 s.entry.clen
  let dsize := lo32 (argSize s)
  let bytes := entryHeaderBytes csize dsize s.entry.mask1 s.entry.mask2 s.cipher.ck ++ s.scratch
  let t := (s.setEntry { s.entry with csize := csize, dsize := dsize, chk := s.cipher.ck }).setPorts
    (outWrite bytes s.ports)
  ((t.setRes csize s.cipher.ck).setScratch []).setSeq .wEntries

theorem wrEndRule_cases (s : State) :
    ((s.entry.clen > 0xFFFFFFFF#64 ∨ argSize s > 0xFFFFFFFF#64) ∧
      wrEndRule s = .next (raise .sizeOverflow ((s.setScratch []).setSeq .fault))) ∨
    (¬(s.entry.clen > 0xFFFFFFFF#64 ∨ argSize s > 0xFFFFFFFF#64) ∧ wrEndRule s = .next (entryEnded s)) := by
  by_cases h : s.entry.clen > 0xFFFFFFFF#64 ∨ argSize s > 0xFFFFFFFF#64
  · exact .inl ⟨h, if_pos h⟩
  · exact .inr ⟨h, if_neg h⟩

/-! ### Outcomes -/

/-- Whatever next state an outcome has, it has the property. -/
def Ensures (P : State → Prop) (r : Result) : Prop := ∀ t, r = .next t → P t

theorem ensures_next {P : State → Prop} {t : State} (h : P t) : Ensures P (.next t) := by
  rintro _ ⟨⟩
  exact h

theorem ensures_fault {P : State → Prop} (f : Fault) : Ensures P (.fault f) := by rintro _ ⟨⟩

/-- What holds of the refused state and of every outcome of the rule holds of every outcome of the command. -/
theorem exec_ensures {P : State → Prop} (i : Instr) (s : State)
    (hrefused : P (raise .unsupportedOperation (s.setErr none)))
    (hrule : legal i s.seq = true → Ensures P (ruleOf i (s.setErr none))) : Ensures P (exec i s) := by
  rw [exec_eq_command]
  rcases command_cases i (ruleOf i) s with ⟨hl, h⟩ | ⟨_, h⟩ <;> rw [h]
  · exact hrule hl
  · exact ensures_next hrefused

/-- The end of a cipher byte: the result, the PRNG and the cipher are written, or there is no step. -/
theorem cipherResult_ensures {P : State → Prop} {r : Option (Byte × Prng × Cipher)} {s : State}
    (h : ∀ out q c, r = some (out, q, c) → P (resByte out ((s.setPrng q).setCipher c))) :
    Ensures P (cipherResult r s) := by
  rcases r with _ | ⟨out, q, c⟩
  · exact ensures_fault _
  · exact ensures_next (h out q c rfl)

theorem cipherResult_completes {r : Option (Byte × Prng × Cipher)} (hr : r ≠ none) (s : State) :
    ∃ t, cipherResult r s = .next t := by
  rcases r with _ | ⟨out, q, c⟩
  · exact absurd rfl hr
  · exact ⟨_, rfl⟩

/-- A word written to `CMD` runs a command, or raises `ILLEGAL_COMMAND` (R42, R44, R45). -/
theorem runWord_ensures {P : State → Prop} (w : Word) (s : State)
    (hillegal : P (raise .illegalCommand (s.setErr none))) (hexec : ∀ i, Ensures P (exec i s)) :
    Ensures P (runWord w s) := by
  unfold runWord
  cases decode w with
  | ok i => exact hexec i
  | error _ => exact ensures_next hillegal

/-! ### What a host access does to the state -/

theorem step_nil {s : State} (h : s.events = []) : step s = .next s := by simp [step, nextEvent, h]

theorem step_memRead (s : State) (addr nbytes : Nat) (rest : List HostEvent) :
    step { s with events := .memRead addr nbytes :: rest } = memRead addr nbytes { s with events := rest } := rfl

theorem step_memWrite (s : State) (addr nbytes : Nat) (v : Word) (rest : List HostEvent) :
    step { s with events := .memWrite addr nbytes v :: rest } = memWrite addr nbytes v { s with events := rest } := rfl

/-- A read returns a value to the host and may take a free word; nothing else changes (R28). -/
theorem memRead_next {addr nbytes : Nat} {s t : State} (h : memRead addr nbytes s = .next t) :
    ∃ v n, t = hostReturn v (s.setFreeCount n) := by
  unfold memRead at h
  cases ha : accessFault addr nbytes with
  | some f => simp [ha] at h
  | none =>
    cases hr : regAt addr with
    | some r => exact ⟨_, _, by simpa [ha, hr] using h.symm⟩
    | none => exact ⟨0, s.freeCount, (by simpa [ha, hr] using h.symm : t = hostReturn 0 s)⟩

/-- `CMD` is the register at offset 0, and the only one there (R27). -/
theorem regAt_eq_cmd {addr : Nat} : regAt addr = some .cmd ↔ addr = 0 :=
  ⟨fun h => (regOffset_of_regAt h).symm, fun h => h ▸ regAt_regOffset .cmd⟩

/-- A write to another register than `CMD` can change `ARG0`, `ARG1` and the existing bits of `CONFIG` only (R28). -/
theorem regWrite_of_ne_cmd {r : Reg} (hr : r ≠ .cmd) (v : Word) (s : State) :
    ∃ a0 a1 c, (c = s.regs.config ∨ c = v &&& configMask) ∧
      regWrite r v s = .next (s.setRegs { s.regs with arg0 := a0, arg1 := a1, config := c }) := by
  cases r with
  | cmd => exact absurd rfl hr
  | config => exact ⟨_, _, _, .inr rfl, rfl⟩
  | _ => exact ⟨_, _, _, .inl rfl, rfl⟩

/-- A write runs a command if it is to `CMD`; elsewhere it can change `ARG0`, `ARG1` and `CONFIG` only (R28). -/
theorem memWrite_next {addr nbytes : Nat} {v : Word} {s t : State} (h : memWrite addr nbytes v s = .next t) :
    (addr = 0 ∧ runWord v s = .next t) ∨
    (addr ≠ 0 ∧ ∃ a0 a1 c, (c = s.regs.config ∨ c = v &&& configMask) ∧
      t = s.setRegs { s.regs with arg0 := a0, arg1 := a1, config := c }) := by
  unfold memWrite at h
  cases ha : accessFault addr nbytes with
  | some f => simp [ha] at h
  | none =>
    simp only [ha] at h
    cases hr : regAt addr with
    | none =>
      simp only [hr, Host.Outcome.next.injEq] at h
      refine .inr ⟨fun h0 => ?_, _, _, _, .inl rfl, h.symm⟩
      simp [regAt_eq_cmd.2 h0] at hr
    | some r =>
      simp only [hr] at h
      by_cases hcmd : r = .cmd
      · subst hcmd
        exact .inl ⟨regAt_eq_cmd.1 hr, h⟩
      · obtain ⟨a0, a1, c, hc, hw⟩ := regWrite_of_ne_cmd hcmd v s
        rw [hw, Host.Outcome.next.injEq] at h
        refine .inr ⟨fun h0 => hcmd ?_, a0, a1, c, hc, h.symm⟩
        exact Option.some.inj (hr.symm.trans (regAt_eq_cmd.2 h0))

/-! ### What every command keeps -/

/-- `ERR_STICKY` after a command that ends with this error, or with none (R16). -/
def recordError : Option Error → Word → Word
  | none, sticky => sticky
  | some e, sticky => sticky ||| e.stickyBit

/-- The frame of a command: of the registers it writes results, the error and its record in `ERR_STICKY` (R100); to what
the host has yet to do and has read, and to the parameter `SCRATCH_CAP`, it has no access. -/
structure CommandFrame (s t : State) : Prop where
  regs : ∃ r0 r1 e, t.regs =
    { s.regs with res0 := r0, res1 := r1, err := e, errSticky := recordError e s.regs.errSticky }
  events : t.events = s.events
  hostReads : t.hostReads = s.hostReads
  scratchCap : t.scratchCap = s.scratchCap

/-- Every outcome of a rule is written over the state by updates that the frame admits. -/
theorem ruleOf_frame (i : Instr) (s : State) : Ensures (CommandFrame s) (ruleOf i (s.setErr none)) := by
  cases i with
  | nop | prngSeed | subOpen | ciphInit | wrOpen | coreReset =>
    exact ensures_next ⟨⟨_, _, _, rfl⟩, rfl, rfl, rfl⟩
  | prngNext =>
    rcases prngNextRule_cases (s.setErr none) with ⟨_, h⟩ | ⟨_, h⟩ <;> rw [ruleOf, h] <;>
      exact ensures_next ⟨⟨_, _, _, rfl⟩, rfl, rfl, rfl⟩
  | keyChecksum =>
    rcases keyChecksumRule_cases (s.setErr none) with ⟨_, h⟩ | ⟨_, h⟩ <;> rw [ruleOf, h] <;>
      exact ensures_next ⟨⟨_, _, _, rfl⟩, rfl, rfl, rfl⟩
  | subRead =>
    rcases subReadRule_cases (s.setErr none) with ⟨_, h⟩ | ⟨_, _, b, h⟩ <;> rw [ruleOf, h] <;>
      exact ensures_next ⟨⟨_, _, _, rfl⟩, rfl, rfl, rfl⟩
  | ciphDec =>
    rcases ciphDecRule_cases (s.setErr none) with ⟨_, h⟩ | ⟨_, _, h⟩ | ⟨_, _, h⟩ <;> rw [ruleOf, h]
    · exact ensures_next ⟨⟨_, _, _, rfl⟩, rfl, rfl, rfl⟩
    · exact ensures_next ⟨⟨_, _, _, rfl⟩, rfl, rfl, rfl⟩
    · exact cipherResult_ensures fun _ _ _ _ => ⟨⟨_, _, _, rfl⟩, rfl, rfl, rfl⟩
  | ciphEnc =>
    rcases ciphEncRule_cases (s.setErr none) with ⟨_, h⟩ | ⟨_, _, h⟩ | ⟨_, _, h⟩ <;> rw [ruleOf, h]
    · exact ensures_next ⟨⟨_, _, _, rfl⟩, rfl, rfl, rfl⟩
    · exact ensures_next ⟨⟨_, _, _, rfl⟩, rfl, rfl, rfl⟩
    · exact cipherResult_ensures fun _ _ _ _ => ⟨⟨_, _, _, rfl⟩, rfl, rfl, rfl⟩
  | rdOpen =>
    rcases rdOpenRule_cases (s.setErr none) with ⟨_, h⟩ | ⟨_, _, h⟩ | ⟨_, _, h⟩ <;> rw [ruleOf, h] <;>
      exact ensures_next ⟨⟨_, _, _, rfl⟩, rfl, rfl, rfl⟩
  | rdHasnext =>
    rcases rdHasnextRule_cases (s.setErr none) with ⟨_, h⟩ | ⟨_, _, h⟩ | ⟨_, _, h⟩ <;> rw [ruleOf, h] <;>
      exact ensures_next ⟨⟨_, _, _, rfl⟩, rfl, rfl, rfl⟩
  | rdEntry =>
    rcases rdEntryRule_cases (s.setErr none) with ⟨_, h⟩ | ⟨_, h⟩ <;> rw [ruleOf, h] <;>
      exact ensures_next ⟨⟨_, _, _, rfl⟩, rfl, rfl, rfl⟩
  | rdPull =>
    rcases rdPullRule_cases (s.setErr none) with ⟨_, h⟩ | ⟨_, _, b, h⟩ <;> rw [ruleOf, h]
    · exact ensures_next ⟨⟨_, _, _, rfl⟩, rfl, rfl, rfl⟩
    · exact cipherResult_ensures fun _ _ _ _ => ⟨⟨_, _, _, rfl⟩, rfl, rfl, rfl⟩
  | rdPut =>
    rcases rdPutRule_cases (s.setErr none) with ⟨_, h⟩ | ⟨_, _, h⟩ | ⟨_, _, _, h⟩ | ⟨_, _, _, h⟩ <;> rw [ruleOf, h]
    · exact ensures_next ⟨⟨_, _, _, rfl⟩, rfl, rfl, rfl⟩
    · exact ensures_next ⟨⟨_, _, _, rfl⟩, rfl, rfl, rfl⟩
    · exact ensures_next ⟨⟨_, _, _, rfl⟩, rfl, rfl, rfl⟩
    · exact ensures_fault _
  | rdFinish =>
    rcases rdFinishRule_cases (s.setErr none) with ⟨_, _, h⟩ | ⟨_, h⟩ <;> rw [ruleOf, h] <;>
      exact ensures_next ⟨⟨_, _, _, rfl⟩, rfl, rfl, rfl⟩
  | wrBegin =>
    rw [ruleOf, wrBeginRule_eq]
    rcases emitHeader_cases (s.setErr none) with ⟨_, h⟩ | ⟨_, n, hdr, bs, _, h⟩ <;> rw [h] <;>
      exact ensures_next ⟨⟨_, _, _, rfl⟩, rfl, rfl, rfl⟩
  | wrPush =>
    rcases wrPushRule_cases (s.setErr none) with ⟨_, _, _, _, _, _, h⟩ | ⟨_, f, h⟩ <;> rw [ruleOf, h]
    · exact ensures_next ⟨⟨_, _, _, rfl⟩, rfl, rfl, rfl⟩
    · exact ensures_fault _
  | wrEnd =>
    rcases wrEndRule_cases (s.setErr none) with ⟨_, h⟩ | ⟨_, h⟩ <;> rw [ruleOf, h] <;>
      exact ensures_next ⟨⟨_, _, _, rfl⟩, rfl, rfl, rfl⟩

theorem exec_frame (i : Instr) (s : State) : Ensures (CommandFrame s) (exec i s) :=
  exec_ensures i s ⟨⟨_, _, _, rfl⟩, rfl, rfl, rfl⟩ fun _ => ruleOf_frame i s

theorem runWord_frame (w : Word) (s : State) : Ensures (CommandFrame s) (runWord w s) :=
  runWord_ensures w s ⟨⟨_, _, _, rfl⟩, rfl, rfl, rfl⟩ fun i => exec_frame i s

/-- Settles O40: `ARG0`, `ARG1` and `CONFIG` are in no record a command can leave, and the rest is its frame. -/
theorem commandsNeverWriteOperands : Obligations.CommandsNeverWriteOperands := by
  intro i s t h
  obtain ⟨⟨r0, r1, e, hregs⟩, hevents, hreads, hcap⟩ := exec_frame i s t h
  rw [hregs]
  exact ⟨rfl, rfl, rfl, hevents, hreads, hcap⟩

/-- A command records the error it ends with in `ERR_STICKY`, and no other bit (R16, R100). -/
theorem errSticky_of_frame {s t : State} (h : CommandFrame s t) :
    t.regs.errSticky = s.regs.errSticky |||
      match t.regs.err with
      | none => 0#32
      | some e => 1#32 <<< (errCode (some e)).toNat := by
  obtain ⟨r0, r1, e, hregs⟩ := h.regs
  rw [hregs]
  cases e with
  | none => exact BitVec.or_zero.symm
  | some e => rfl

/-- Settles O36: of the four kinds of event, a command word by the frame of commands, the others by what they write. -/
theorem errStickyRemembersEveryError : Obligations.ErrStickyRemembersEveryError := by
  refine ⟨?_, ?_, ?_, ?_, ?_, rfl⟩
  · intro s t w rest h
    rw [step_memWrite] at h
    rcases memWrite_next h with ⟨_, hrun⟩ | ⟨hne, _⟩
    · exact (errSticky_of_frame (runWord_frame w _ t hrun) :)
    · exact absurd rfl hne
  · intro s t addr v rest hne h
    rw [step_memWrite] at h
    rcases memWrite_next h with ⟨h0, _⟩ | ⟨_, a0, a1, c, _, rfl⟩
    · exact absurd h0 hne
    · rfl
  · intro s t addr rest h
    rw [step_memRead] at h
    obtain ⟨v, n, rfl⟩ := memRead_next h
    rfl
  · rintro s t rest ⟨⟩
    rfl
  · intro s
    have hmask : stickyMask &&& 0xFFFFFE01#32 = 0 := by decide
    rw [regValue, BitVec.and_assoc, hmask]
    exact BitVec.and_zero

/-! ### Where a command completes -/

/-- The three ends of R22, R73 and I3 at which a command can be stuck are away. -/
structure Unstuck (s : State) : Prop where
  pos : s.cipher.pos ≠ BitVec.allOnes 64
  clen : s.entry.clen ≠ BitVec.allOnes 64
  room : ∀ cap, s.scratchCap = some cap → s.scratch.length < cap

theorem ruleOf_completes (i : Instr) {s : State} (hs : Unstuck s) : ∃ t, ruleOf i s = .next t := by
  obtain ⟨hpos, hclen, hroom⟩ := hs
  have hfull : ¬∃ cap, s.scratchCap = some cap ∧ cap ≤ s.scratch.length := by
    rintro ⟨cap, hcap, hle⟩
    exact absurd (hroom cap hcap) (by omega)
  have hdec (b : Byte) := mt (decryptByte_eq_none b s).1 hpos
  have henc (b : Byte) := mt (encryptByte_eq_none b s).1 hpos
  cases i with
  | nop | prngSeed | subOpen | ciphInit | wrOpen | wrBegin | coreReset => exact ⟨_, rfl⟩
  | prngNext => rcases prngNextRule_cases s with ⟨_, h⟩ | ⟨_, h⟩ <;> exact ⟨_, h⟩
  | keyChecksum => rcases keyChecksumRule_cases s with ⟨_, h⟩ | ⟨_, h⟩ <;> exact ⟨_, h⟩
  | subRead => rcases subReadRule_cases s with ⟨_, h⟩ | ⟨_, _, _, h⟩ <;> exact ⟨_, h⟩
  | ciphDec =>
    rcases ciphDecRule_cases s with ⟨_, h⟩ | ⟨_, _, h⟩ | ⟨_, _, h⟩
    · exact ⟨_, h⟩
    · exact ⟨_, h⟩
    · rw [ruleOf, h]
      exact cipherResult_completes (hdec _) s
  | ciphEnc =>
    rcases ciphEncRule_cases s with ⟨_, h⟩ | ⟨_, _, h⟩ | ⟨_, _, h⟩
    · exact ⟨_, h⟩
    · exact ⟨_, h⟩
    · rw [ruleOf, h]
      exact cipherResult_completes (henc _) s
  | rdOpen => rcases rdOpenRule_cases s with ⟨_, h⟩ | ⟨_, _, h⟩ | ⟨_, _, h⟩ <;> exact ⟨_, h⟩
  | rdHasnext => rcases rdHasnextRule_cases s with ⟨_, h⟩ | ⟨_, _, h⟩ | ⟨_, _, h⟩ <;> exact ⟨_, h⟩
  | rdEntry => rcases rdEntryRule_cases s with ⟨_, h⟩ | ⟨_, h⟩ <;> exact ⟨_, h⟩
  | rdPull =>
    rcases rdPullRule_cases s with ⟨_, h⟩ | ⟨_, _, b, h⟩
    · exact ⟨_, h⟩
    · rw [ruleOf, h]
      exact cipherResult_completes (hdec b) _
  | rdPut =>
    rcases rdPutRule_cases s with ⟨_, h⟩ | ⟨_, _, h⟩ | ⟨_, _, _, h⟩ | ⟨_, _, hstuck, _⟩
    · exact ⟨_, h⟩
    · exact ⟨_, h⟩
    · exact ⟨_, h⟩
    · exact absurd hstuck hfull
  | rdFinish => rcases rdFinishRule_cases s with ⟨_, _, h⟩ | ⟨_, h⟩ <;> exact ⟨_, h⟩
  | wrPush =>
    rcases wrPushRule_cases s with ⟨_, _, _, _, _, _, h⟩ | ⟨hp | hc | hstuck, _⟩
    · exact ⟨_, h⟩
    · exact absurd hp hpos
    · exact absurd hc hclen
    · exact absurd hstuck hfull
  | wrEnd => rcases wrEndRule_cases s with ⟨_, h⟩ | ⟨_, h⟩ <;> exact ⟨_, h⟩

/-- Settles O37: a refused command completes, and the rule of a legal one completes away from the three ends. -/
theorem everyCommandCompletesUnlessStuck : Obligations.EveryCommandCompletesUnlessStuck := by
  intro i s hpos hclen hroom
  rw [exec_eq_command]
  rcases command_cases i (ruleOf i) s with ⟨_, h⟩ | ⟨_, h⟩ <;> rw [h]
  · refine ruleOf_completes i ⟨?_, ?_, hroom⟩ <;>
      · rw [Ne, pos_eq_allOnes]
        exact Nat.ne_of_lt (by assumption)
  · exact ⟨_, rfl⟩

/-! ### What the operations on the state keep of the invariant

One rule per operation; a command's proof composes those of the operations it is written over. -/

section
variable {s : State} (hi : s.Inv)
include hi

theorem inv_setErr (e : Option Error) : (s.setErr e).Inv := { hi with }

theorem inv_setRes (r0 r1 : Word) : (s.setRes r0 r1).Inv := { hi with }

theorem inv_setCipher (c : Cipher) : (s.setCipher c).Inv := { hi with }

theorem inv_setEvents (es : List HostEvent) : (s.setEvents es).Inv := { hi with }

theorem inv_hostReturn (v : Word) (n : Nat) : (hostReturn v (s.setFreeCount n)).Inv := { hi with }

/-- Every error has its bit among the existing ones of `ERR_STICKY`. -/
theorem inv_raise (e : Error) : (raise e s).Inv :=
  { hi with
    stickyBits := by
      have hbit : e.stickyBit &&& ~~~stickyMask = 0 := by cases e <;> rfl
      rw [raise_regs, BitVec.and_or_distrib_right, hi.stickyBits, hbit]
      rfl }

/-- A seeded PRNG may hold anything. -/
theorem inv_setPrng {p : Prng} (hp : p.valid = true) : (s.setPrng p).Inv :=
  { hi with
    openSeeded := fun _ => hp
    unseededIdx := fun h => absurd (hp.symm.trans h) (by decide) }

theorem inv_setSub {u : SubRange} (hu : u.cnt ≤ u.n) : (s.setSub u).Inv := { hi with subBudget := hu }

theorem inv_setPorts {p : Ports} (hp : p.inPos ≤ p.input.length) : (s.setPorts p).Inv := { hi with inBounds := hp }

/-- `HDR_DONE` may be set at any time, and cleared outside a writer's entries. -/
theorem inv_setHdr {h : Header} (hh : s.seq = .wEntries ∨ s.seq = .wInEntry → h.hdrDone = true) : (s.setHdr h).Inv :=
  { hi with headerOut := hh }

/-- `SEQ` may move between the values outside an entry, with `SCRATCH` emptied. -/
theorem inv_leaveEntry {q : Seq} (hr : q ≠ .rInEntry) (hw : q ≠ .wInEntry)
    (hopen : q.isOpen = true → s.prng.valid = true) (hout : q = .wEntries → s.hdr.hdrDone = true) :
    ((s.setScratch []).setSeq q).Inv :=
  { hi with
    scratchFits := fun _ _ => Nat.zero_le _
    openSeeded := hopen
    headerOut := fun h => h.elim hout fun h => absurd h hw
    copiedCapped := fun h => absurd h hr
    scratchIdle := fun _ _ => rfl
    scratchReader := fun h => absurd h hr
    scratchWriter := fun h => absurd h hw }

/-- As `inv_leaveEntry`, from outside an entry, where `SCRATCH` is empty already. -/
theorem inv_setSeq {q : Seq} (hr' : s.seq ≠ .rInEntry) (hw' : s.seq ≠ .wInEntry) (hr : q ≠ .rInEntry)
    (hw : q ≠ .wInEntry) (hopen : q.isOpen = true → s.prng.valid = true)
    (hout : q = .wEntries → s.hdr.hdrDone = true) : (s.setSeq q).Inv := by
  have hempty : s.setScratch [] = s := by rw [← hi.scratchIdle hr' hw']; rfl
  exact hempty ▸ inv_leaveEntry hi hr hw hopen hout

theorem inv_outWrite (bs : List Byte) : (s.setPorts (outWrite bs s.ports)).Inv := inv_setPorts hi hi.inBounds

/-- A byte taken through the sub-range is within the budget and within `INPUT`. -/
theorem inv_byteTaken (hne : s.sub.cnt ≠ s.sub.n) (hlt : s.ports.inPos < s.ports.input.length) : (byteTaken s).Inv := by
  have hcnt : s.sub.cnt + 1 ≤ s.sub.n := by
    have := hi.subBudget
    bv_omega
  exact inv_setPorts (inv_setSub hi hcnt) hlt

theorem inv_cipherResult {b : Option (Byte × Prng × Cipher)} (hb : ∀ out q c, b = some (out, q, c) → q.valid = true) :
    Ensures State.Inv (cipherResult b s) :=
  cipherResult_ensures fun _ _ _ h => inv_setRes (inv_setCipher (inv_setPrng hi (hb _ _ _ h)) _) _ _

theorem inv_raiseTruncated (hr : s.seq ≠ .rInEntry) (hw : s.seq ≠ .wInEntry) : (raiseTruncated s).Inv := by
  have hdrain : (inDrain s.ports).inPos ≤ (inDrain s.ports).input.length := by
    have := hi.inBounds
    simp only [inDrain_spec]
    omega
  exact inv_raise (inv_setSeq (inv_setPorts hi hdrain) hr hw (q := .fault) nofun nofun nofun nofun) _

/-- Nothing is open after a reset, and what it keeps is in bounds already (R24). -/
theorem inv_coreReset : (coreReset s).Inv :=
  { hi with
    subBudget := Nat.zero_le _
    scratchFits := fun _ _ => Nat.zero_le _
    openSeeded := nofun
    unseededIdx := fun _ => rfl
    headerOut := nofun
    copiedCapped := nofun
    scratchIdle := fun _ _ => rfl
    scratchReader := nofun
    scratchWriter := nofun }

theorem inv_powerOnReset : (powerOnReset s).Inv :=
  { inv_coreReset hi with stickyBits := BitVec.zero_and, configBits := BitVec.zero_and }

/-! ### The rules that open, close or fill an entry -/

theorem inv_headerTaken (hlen : 8 ≤ inAvail s.ports) : (headerTaken s).Inv := by
  have hports : (inRead32 (inRead32 s.ports).2).2.inPos ≤ (inRead32 (inRead32 s.ports).2).2.input.length := by
    simp only [inAvail, inRead32_spec] at hlen ⊢
    omega
  refine inv_setRes (inv_setPrng (inv_setHdr (inv_setPorts hi hports) ?_) ?_) _ _
  · exact hi.headerOut
  · rw [keyChecksum_spec, prngAfter_valid, prngSeed_valid]

theorem inv_rdOpenRule (hq : s.seq = .idle) : Ensures State.Inv (rdOpenRule s) := by
  have hr : s.seq ≠ .rInEntry := by simp [hq]
  have hw : s.seq ≠ .wInEntry := by simp [hq]
  rcases rdOpenRule_cases s with ⟨_, h⟩ | ⟨hlen, _, h⟩ | ⟨hlen, _, h⟩ <;> rw [h]
  · exact ensures_next (inv_raiseTruncated hi hr hw)
  · have hv : (headerTaken s).prng.valid = true := by simp [headerTaken, keyChecksum_spec]
    exact ensures_next (inv_setSeq (inv_headerTaken hi hlen) hr hw nofun nofun (fun _ => hv) nofun)
  · exact ensures_next (inv_raise (inv_setSeq (inv_headerTaken hi hlen) hr hw (q := .fault) nofun nofun nofun nofun) _)

theorem inv_rdHasnextRule : Ensures State.Inv (rdHasnextRule s) := by
  rcases rdHasnextRule_cases s with ⟨_, h⟩ | ⟨_, hq, h⟩ | ⟨_, _, h⟩ <;> rw [h]
  · exact ensures_next (inv_setRes hi _ _)
  · have hv : s.prng.valid = true := by rcases hq with hq | hq <;> exact hi.openSeeded (by rw [hq]; rfl)
    refine ensures_next (inv_setSeq (inv_setRes hi 0 0) ?_ ?_ nofun nofun (fun _ => hv) nofun) <;>
      · rcases hq with hq | hq <;> simp [hq]
  · exact ensures_next (inv_setRes hi _ _)

theorem inv_entryOpened (hv : s.prng.valid = true) (hlen : 12 ≤ inAvail s.ports) : (entryOpened s).Inv :=
  { hi with
    subBudget := Nat.zero_le _
    inBounds := by
      change s.ports.inPos + 12 ≤ s.ports.input.length
      unfold inAvail at hlen
      omega
    scratchFits := fun _ _ => Nat.zero_le _
    openSeeded := fun _ => (prngAfter_valid 2 s.prng).trans hv
    unseededIdx := fun h => absurd (((prngAfter_valid 2 s.prng).trans hv).symm.trans h) (by decide)
    headerOut := nofun
    copiedCapped := fun _ => Nat.zero_le _
    scratchIdle := fun h => absurd rfl h
    scratchReader := fun _ => (ite_self 0).symm
    scratchWriter := nofun }

theorem inv_rdEntryRule (hq : s.seq = .rHdr ∨ s.seq = .rEntries) : Ensures State.Inv (rdEntryRule s) := by
  rcases rdEntryRule_cases s with ⟨_, h⟩ | ⟨hlen, h⟩ <;> rw [h]
  · refine ensures_next (inv_raiseTruncated hi ?_ ?_) <;>
      · rcases hq with hq | hq <;> simp [hq]
  · have hv : s.prng.valid = true := by rcases hq with hq | hq <;> exact hi.openSeeded (by rw [hq]; rfl)
    exact ensures_next (inv_entryOpened hi hv hlen)

/-- Counting a copied byte keeps `COPIED` within `E_DSIZE` and `SCRATCH` with as many bytes as are buffered (R83). -/
theorem inv_byteCopied (hq : s.seq = .rInEntry) (hlt : s.entry.copied < s.entry.dsize) {bs : List Byte}
    (hfits : ∀ cap, s.scratchCap = some cap → bs.length ≤ cap)
    (hbs : bs.length = if s.entry.bufLatched then s.entry.copied.toNat + 1 else 0) :
    ((byteCopied s).setScratch bs).Inv := by
  have hnum : (s.entry.copied + 1).toNat = s.entry.copied.toNat + 1 := by bv_omega
  have hw : s.seq ≠ .wInEntry := by simp [hq]
  exact { hi with
    scratchFits := hfits
    copiedCapped := fun _ => (by bv_omega : s.entry.copied + 1 ≤ s.entry.dsize)
    scratchIdle := fun h => absurd hq h
    scratchReader := fun _ => hbs.trans (by rw [← hnum]; rfl)
    scratchWriter := fun h => absurd h hw }

theorem inv_rdPutRule (hq : s.seq = .rInEntry) : Ensures State.Inv (rdPutRule s) := by
  have hlen := hi.scratchReader hq
  rcases rdPutRule_cases s with ⟨_, h⟩ | ⟨hlt, hb, h⟩ | ⟨hlt, hb, hroom, h⟩ | ⟨_, _, _, h⟩ <;> rw [h]
  · exact ensures_next hi
  · have hbs : s.scratch.length = if s.entry.bufLatched then s.entry.copied.toNat + 1 else 0 := by simpa [hb] using hlen
    exact ensures_next (inv_outWrite (inv_byteCopied hi hq hlt hi.scratchFits hbs) _)
  · refine ensures_next (inv_byteCopied hi hq hlt (fun cap hcap => ?_) ?_)
    · simpa using hroom cap hcap
    · simpa [hb] using hlen
  · exact ensures_fault _

theorem inv_rdFinishRule (hq : s.seq = .rInEntry) : Ensures State.Inv (rdFinishRule s) := by
  have hv : s.prng.valid = true := hi.openSeeded (by rw [hq]; rfl)
  have hf : (entryFinished s).Inv := inv_leaveEntry (inv_setRes hi _ _) nofun nofun (fun _ => hv) nofun
  rcases rdFinishRule_cases s with ⟨e, _, h⟩ | ⟨_, h⟩ <;> rw [h]
  · exact ensures_next (inv_raise hf e)
  · exact ensures_next (inv_outWrite hf _)

theorem inv_wrOpenRule (hq : s.seq = .idle) : Ensures State.Inv (wrOpenRule s) := by
  refine ensures_next (inv_setSeq (inv_setPrng (inv_setHdr hi ?_) rfl) ?_ ?_ nofun nofun (fun _ => rfl) nofun) <;>
    simp [hq]

theorem inv_emitHeader (hv : s.prng.valid = true) : (emitHeader s).Inv := by
  rcases emitHeader_cases s with ⟨_, h⟩ | ⟨_, n, hdr, bs, hdone, h⟩ <;> rw [h]
  · exact hi
  · have hp : (prngAfter n s.prng).valid = true := (prngAfter_valid n s.prng).trans hv
    exact inv_outWrite (inv_setHdr (inv_setPrng hi hp) fun _ => hdone) bs

theorem inv_entryBegun (hv : s.prng.valid = true) (hdone : s.hdr.hdrDone = true) : (entryBegun s).Inv :=
  { hi with
    scratchFits := fun _ _ => Nat.zero_le _
    openSeeded := fun _ => hv
    unseededIdx := fun h => absurd (hv.symm.trans h) (by decide)
    headerOut := fun _ => hdone
    copiedCapped := nofun
    scratchIdle := fun _ h => absurd rfl h
    scratchReader := nofun
    scratchWriter := fun _ => rfl }

theorem inv_wrBeginRule (hq : s.seq = .wPending ∨ s.seq = .wEntries) : Ensures State.Inv (wrBeginRule s) := by
  have hv : s.prng.valid = true := by rcases hq with hq | hq <;> exact hi.openSeeded (by rw [hq]; rfl)
  have hout : (emitHeader s).prng.valid = true ∧ (emitHeader s).hdr.hdrDone = true := by
    rcases emitHeader_cases s with ⟨hdone, h⟩ | ⟨_, n, hdr, bs, hdone, h⟩ <;> rw [h]
    · exact ⟨hv, hdone⟩
    · exact ⟨(prngAfter_valid n s.prng).trans hv, hdone⟩
  exact ensures_next (inv_entryBegun (inv_emitHeader hi hv) hout.1 hout.2)

theorem inv_wrPushRule (hq : s.seq = .wInEntry) : Ensures State.Inv (wrPushRule s) := by
  have hv : s.prng.valid = true := hi.openSeeded (by rw [hq]; rfl)
  have hr : s.seq ≠ .rInEntry := by simp [hq]
  rcases wrPushRule_cases s with ⟨out, q, c, henc, hroom, hclen, h⟩ | ⟨_, f, h⟩ <;> rw [h]
  · have hnum : (s.entry.clen + 1).toNat = s.entry.clen.toNat + 1 := by
      have := (pos_eq_allOnes s.entry.clen).not.1 hclen
      bv_omega
    have hlen : (s.scratch ++ [out]).length = s.scratch.length + 1 := List.length_append
    exact ensures_next { inv_setPrng hi ((encryptByte_valid henc).trans hv) with
      scratchFits := fun cap hcap => hlen.trans_le (hroom cap hcap)
      scratchIdle := fun _ h => absurd hq h
      scratchReader := fun h => absurd h hr
      scratchWriter := fun _ => by rw [bytePushed]; exact hlen.trans (by rw [hi.scratchWriter hq]; exact hnum.symm) }
  · exact ensures_fault f

theorem inv_wrEndRule (hq : s.seq = .wInEntry) : Ensures State.Inv (wrEndRule s) := by
  have hv : s.prng.valid = true := hi.openSeeded (by rw [hq]; rfl)
  have hr : s.seq ≠ .rInEntry := by simp [hq]
  rcases wrEndRule_cases s with ⟨_, h⟩ | ⟨_, h⟩ <;> rw [h]
  · exact ensures_next (inv_raise (inv_leaveEntry hi (q := .fault) nofun nofun nofun nofun) _)
  · have hsizes (csize dsize ck : Word) :
        (s.setEntry { s.entry with csize := csize, dsize := dsize, chk := ck }).Inv :=
      { hi with
        copiedCapped := fun h => absurd h hr
        scratchReader := fun h => absurd h hr }
    exact ensures_next (inv_leaveEntry (inv_setRes (inv_outWrite (hsizes _ _ _) _) _ _) nofun nofun (fun _ => hv)
      fun _ => hi.headerOut (.inr hq))

/-- Every command keeps the invariant: the unit commands by the rules of the operations they write, the container
commands by the state their `SEQ` value promises. -/
theorem inv_ruleOf (i : Instr) (hl : legal i s.seq = true) : Ensures State.Inv (ruleOf i s) := by
  cases i with
  | nop => exact ensures_next hi
  | prngSeed => exact ensures_next (inv_setPrng hi rfl)
  | prngNext =>
    rcases prngNextRule_cases s with ⟨_, h⟩ | ⟨hv, h⟩ <;> rw [ruleOf, h]
    · exact ensures_next (inv_raise hi _)
    · exact ensures_next (inv_setRes (inv_setPrng hi (p := (prngNext s.prng).2) hv) _ _)
  | keyChecksum =>
    rcases keyChecksumRule_cases s with ⟨_, h⟩ | ⟨hv, h⟩ <;> rw [ruleOf, h]
    · exact ensures_next (inv_raise hi _)
    · have hkc : (keyChecksum (argWord s) s.prng).2.valid = true := by rw [keyChecksum_spec, prngAfter_valid, hv]
      exact ensures_next (inv_setRes (inv_setPrng hi hkc) _ _)
  | subOpen => exact ensures_next (inv_setSub hi (Nat.zero_le _))
  | subRead =>
    rcases subReadRule_cases s with ⟨_, h⟩ | ⟨hne, hlt, b, h⟩ <;> rw [ruleOf, h]
    · exact ensures_next (inv_setRes hi _ _)
    · exact ensures_next (inv_setRes (inv_byteTaken hi hne hlt) _ _)
  | ciphInit => exact ensures_next (inv_setCipher hi _)
  | ciphDec =>
    rcases ciphDecRule_cases s with ⟨_, h⟩ | ⟨_, _, h⟩ | ⟨_, hv, h⟩ <;> rw [ruleOf, h]
    · exact ensures_next (inv_raise hi _)
    · exact ensures_next (inv_raise hi _)
    · exact inv_cipherResult hi fun _ _ _ h => (decryptByte_valid h).trans hv
  | ciphEnc =>
    rcases ciphEncRule_cases s with ⟨_, h⟩ | ⟨_, _, h⟩ | ⟨_, hv, h⟩ <;> rw [ruleOf, h]
    · exact ensures_next (inv_raise hi _)
    · exact ensures_next (inv_raise hi _)
    · exact inv_cipherResult hi fun _ _ _ h => (encryptByte_valid h).trans hv
  | rdOpen => exact inv_rdOpenRule hi (by simpa [legal] using hl)
  | rdHasnext => exact inv_rdHasnextRule hi
  | rdEntry => exact inv_rdEntryRule hi (by simpa [legal] using hl)
  | rdPull =>
    have hq : s.seq = .rInEntry := by simpa [legal] using hl
    have hv : s.prng.valid = true := hi.openSeeded (by rw [hq]; rfl)
    rcases rdPullRule_cases s with ⟨_, h⟩ | ⟨hne, hlt, b, h⟩ <;> rw [ruleOf, h]
    · exact ensures_next (inv_setRes hi _ _)
    · exact inv_cipherResult (inv_byteTaken hi hne hlt) fun _ _ _ h => (decryptByte_valid h).trans hv
  | rdPut => exact inv_rdPutRule hi (by simpa [legal] using hl)
  | rdFinish => exact inv_rdFinishRule hi (by simpa [legal] using hl)
  | wrOpen => exact inv_wrOpenRule hi (by simpa [legal] using hl)
  | wrBegin => exact inv_wrBeginRule hi (by simpa [legal] using hl)
  | wrPush => exact inv_wrPushRule hi (by simpa [legal] using hl)
  | wrEnd => exact inv_wrEndRule hi (by simpa [legal] using hl)
  | coreReset => exact ensures_next (inv_coreReset hi)

theorem inv_exec (i : Instr) : Ensures State.Inv (exec i s) :=
  exec_ensures i s (inv_raise (inv_setErr hi none) _) fun hl => inv_ruleOf (inv_setErr hi none) i hl

theorem inv_runWord (w : Word) : Ensures State.Inv (runWord w s) :=
  runWord_ensures w s (inv_raise (inv_setErr hi none) _) fun i => inv_exec hi i

/-- A write outside `CMD`: of `CONFIG` only the existing bits are written (R15). -/
theorem inv_memWrite (addr nbytes : Nat) (v : Word) : Ensures State.Inv (memWrite addr nbytes v s) := by
  intro t h
  rcases memWrite_next h with ⟨_, hrun⟩ | ⟨_, a0, a1, c, hc, rfl⟩
  · exact inv_runWord hi v t hrun
  · have hbits : c &&& ~~~configMask = 0 := by
      rcases hc with rfl | rfl
      · exact hi.configBits
      · rw [BitVec.and_assoc]
        exact BitVec.and_zero
    exact { hi with configBits := hbits }

theorem inv_handleEvent (e : HostEvent) : Ensures State.Inv (handleEvent e s) := by
  cases e with
  | memRead addr nbytes =>
    intro t h
    obtain ⟨v, n, rfl⟩ := memRead_next h
    exact inv_hostReturn hi v n
  | memWrite addr nbytes v => exact inv_memWrite hi addr nbytes v
  | powerOnReset => exact ensures_next (inv_powerOnReset hi)

end

/-- Settles O53: the invariant holds with the event taken, and whatever the event does keeps it. -/
theorem everyStepKeepsTheInvariant : Obligations.EveryStepKeepsTheInvariant := by
  intro s t hi h
  cases hev : s.events with
  | nil =>
    rw [step_nil hev] at h
    cases h
    exact hi
  | cons e rest =>
    rw [step_cons hev] at h
    exact inv_handleEvent (inv_setEvents hi rest) e t h

/-! ### Two states step by step

A claim about two runs is proved one operation at a time: related outcomes of the parts give related outcomes of the
whole. -/

/-- Whenever the first outcome is a next state, the second is one too, and the two are related. -/
def Simulates (R : State → State → Prop) (r r' : Result) : Prop :=
  ∀ t, r = .next t → ∃ u, r' = .next u ∧ R t u

section
variable {R : State → State → Prop}

theorem simulates_next {t u : State} (h : R t u) : Simulates R (.next t) (.next u) := by
  rintro _ ⟨⟩
  exact ⟨u, rfl, h⟩

theorem simulates_fault (f : Fault) (r : Result) : Simulates R (.fault f) r := by rintro _ ⟨⟩

/-- Two branches on the same condition. -/
theorem simulates_ite {p : Prop} [Decidable p] {a b a' b' : Result} (ha : p → Simulates R a a')
    (hb : ¬p → Simulates R b b') : Simulates R (if p then a else b) (if p then a' else b') := by
  by_cases hp : p
  · simpa only [if_pos hp] using ha hp
  · simpa only [if_neg hp] using hb hp

theorem simulates_exec (i : Instr) {s s' : State} (hseq : s'.seq = s.seq)
    (hrefused : R (raise .unsupportedOperation (s.setErr none)) (raise .unsupportedOperation (s'.setErr none)))
    (hrule : legal i s.seq = true → Simulates R (ruleOf i (s.setErr none)) (ruleOf i (s'.setErr none))) :
    Simulates R (exec i s) (exec i s') := by
  rw [exec_eq_command, exec_eq_command]
  cases hl : legal i s.seq with
  | true =>
    rw [command_of_legal _ hl, command_of_legal _ (hseq ▸ hl)]
    exact hrule hl
  | false =>
    rw [command_of_illegal _ hl, command_of_illegal _ (hseq ▸ hl)]
    exact simulates_next hrefused

/-- The same cipher byte written to two states. -/
theorem simulates_cipherResult {r : Option (Byte × Prng × Cipher)} {s s' : State}
    (h : ∀ out q c, R (resByte out ((s.setPrng q).setCipher c)) (resByte out ((s'.setPrng q).setCipher c))) :
    Simulates R (cipherResult r s) (cipherResult r s') := by
  rcases r with _ | ⟨out, q, c⟩
  · exact simulates_fault _ _
  · exact simulates_next (h out q c)

end

/-! ### The words of an unseeded PRNG -/

/-- The state with other words in the PRNG. -/
def withWords (w : Vector Word 16) (s : State) : State := s.setPrng { s.prng with w := w }

/-- Equal, or unseeded and equal but for the PRNG words. -/
def AlikeUnseeded (t u : State) : Prop := u = t ∨ t.prng.valid = false ∧ ∃ w, u = withWords w t

/-- The commands that need a container are refused where none is open (R48). -/
theorem isOpen_of_legal {i : Instr} {q : Seq}
    (hi : i ∈ [.rdHasnext, .rdEntry, .rdPull, .rdPut, .rdFinish, .wrBegin, .wrPush, .wrEnd]) (h : legal i q = true) :
    q.isOpen = true := by
  revert h hi
  cases i <;> cases q <;> decide

section
variable {s : State} (hv : s.prng.valid = false) (w : Vector Word 16)
include hv

theorem prngNextRule_unseeded : prngNextRule s = .next (raise .unseeded s) := by
  rw [prngNextRule, if_pos hv]

theorem keyChecksumRule_unseeded : keyChecksumRule s = .next (raise .unseeded s) := by
  rw [keyChecksumRule, if_pos hv]

theorem ciphDecRule_unseeded :
    ciphDecRule s = .next (raise (if s.cipher.dir ≠ 0#1 then .unsupportedOperation else .unseeded) s) := by
  rw [ciphDecRule, if_pos hv]
  split <;> rfl

theorem ciphEncRule_unseeded :
    ciphEncRule s = .next (raise (if s.cipher.dir ≠ 1#1 then .unsupportedOperation else .unseeded) s) := by
  rw [ciphEncRule, if_pos hv]
  split <;> rfl

/-- With no container open, no rule reads the words of an unseeded PRNG: it raises `UNSEEDED`, writes all sixteen, or
has nothing to do with them. -/
theorem simulates_ruleOf_withWords (hclosed : s.seq.isOpen = false) (i : Instr) (hl : legal i s.seq = true) :
    Simulates AlikeUnseeded (ruleOf i s) (ruleOf i (withWords w s)) := by
  have hv' : (withWords w s).prng.valid = false := hv
  have hopen {P : Prop} (hi : i ∈ [.rdHasnext, .rdEntry, .rdPull, .rdPut, .rdFinish, .wrBegin, .wrPush, .wrEnd]) : P :=
    absurd (isOpen_of_legal hi hl) (by simp [hclosed])
  cases i with
  | nop | subOpen | ciphInit => exact simulates_next (.inr ⟨hv, w, rfl⟩)
  | prngSeed | wrOpen | coreReset => exact simulates_next (.inl rfl)
  | prngNext =>
    rw [ruleOf, prngNextRule_unseeded hv, prngNextRule_unseeded hv']
    exact simulates_next (.inr ⟨hv, w, rfl⟩)
  | keyChecksum =>
    rw [ruleOf, keyChecksumRule_unseeded hv, keyChecksumRule_unseeded hv']
    exact simulates_next (.inr ⟨hv, w, rfl⟩)
  | ciphDec =>
    rw [ruleOf, ciphDecRule_unseeded hv, ciphDecRule_unseeded hv']
    exact simulates_next (.inr ⟨hv, w, rfl⟩)
  | ciphEnc =>
    rw [ruleOf, ciphEncRule_unseeded hv, ciphEncRule_unseeded hv']
    exact simulates_next (.inr ⟨hv, w, rfl⟩)
  | subRead =>
    simp only [ruleOf, subReadRule, withWords, State.setPrng_sub, State.setPrng_ports]
    cases subRead s.sub s.ports <;> exact simulates_next (.inr ⟨hv, w, rfl⟩)
  | rdOpen =>
    by_cases hlen : inAvail s.ports < 8
    · have hshort (t : State) (h : inAvail t.ports < 8) : rdOpenRule t = .next (raiseTruncated t) := if_pos h
      rw [ruleOf, hshort s hlen, hshort (withWords w s) hlen]
      exact simulates_next (.inr ⟨hv, w, rfl⟩)
    · have hsame : rdOpenRule (withWords w s) = rdOpenRule s := (if_neg hlen).trans (if_neg hlen).symm
      rw [ruleOf, hsame]
      exact fun t h => ⟨t, h, .inl rfl⟩
  | rdHasnext | rdEntry | rdPull | rdPut | rdFinish | wrBegin | wrPush | wrEnd => exact hopen (by decide)

theorem simulates_exec_withWords (hclosed : s.seq.isOpen = false) (i : Instr) :
    Simulates AlikeUnseeded (exec i s) (exec i (withWords w s)) :=
  simulates_exec i rfl (.inr ⟨hv, w, rfl⟩) fun hl =>
    simulates_ruleOf_withWords (s := s.setErr none) hv w hclosed i hl

theorem simulates_runWord_withWords (hclosed : s.seq.isOpen = false) (v : Word) :
    Simulates AlikeUnseeded (runWord v s) (runWord v (withWords w s)) := by
  unfold runWord
  cases decode v with
  | ok i => exact simulates_exec_withWords hv w hclosed i
  | error _ => exact simulates_next (.inr ⟨hv, w, rfl⟩)

/-- No register of the window shows a word of an unseeded PRNG (R27; log 2). -/
theorem regValue_withWords (r : Reg) : regValue r (withWords w s) = regValue r s := by
  cases r with
  | prngW k => exact (if_neg (by simp [withWords, hv])).trans (if_neg (by simp [hv])).symm
  | _ => rfl

theorem simulates_memRead_withWords (addr nbytes : Nat) :
    Simulates AlikeUnseeded (memRead addr nbytes s) (memRead addr nbytes (withWords w s)) := by
  unfold memRead
  cases accessFault addr nbytes with
  | some f => exact simulates_fault f _
  | none =>
    cases regAt addr with
    | none => exact simulates_next (.inr ⟨hv, w, rfl⟩)
    | some r =>
      simp only [regValue_withWords hv w]
      exact simulates_next (.inr ⟨hv, w, rfl⟩)

theorem simulates_memWrite_withWords (hclosed : s.seq.isOpen = false) (addr nbytes : Nat) (v : Word) :
    Simulates AlikeUnseeded (memWrite addr nbytes v s) (memWrite addr nbytes v (withWords w s)) := by
  unfold memWrite
  cases accessFault addr nbytes with
  | some f => exact simulates_fault f _
  | none =>
    cases regAt addr with
    | none => exact simulates_next (.inr ⟨hv, w, rfl⟩)
    | some r =>
      cases r with
      | cmd => exact simulates_runWord_withWords hv w hclosed v
      | _ => exact simulates_next (.inr ⟨hv, w, rfl⟩)

theorem simulates_handleEvent_withWords (hclosed : s.seq.isOpen = false) (e : HostEvent) :
    Simulates AlikeUnseeded (handleEvent e s) (handleEvent e (withWords w s)) := by
  cases e with
  | memRead addr nbytes => exact simulates_memRead_withWords hv w addr nbytes
  | memWrite addr nbytes v => exact simulates_memWrite_withWords hv w hclosed addr nbytes v
  | powerOnReset => exact simulates_next (.inl rfl)

theorem simulates_step_withWords (hclosed : s.seq.isOpen = false) :
    Simulates AlikeUnseeded (step s) (step (withWords w s)) := by
  cases hev : s.events with
  | nil =>
    rw [step_nil hev, step_nil (s := withWords w s) hev]
    exact simulates_next (.inr ⟨hv, w, rfl⟩)
  | cons e rest =>
    rw [step_cons hev, step_cons (s := withWords w s) hev]
    exact simulates_handleEvent_withWords (s := s.setEvents rest) hv w hclosed e

end

/-- Settles O55: the invariant leaves no container open over an unseeded PRNG, and then no event observes its words. -/
theorem unseededWordsAreNeverObserved : Obligations.UnseededWordsAreNeverObserved := by
  intro s t w hi hv h
  have hclosed : s.seq.isOpen = false := by
    cases ho : s.seq.isOpen with
    | false => rfl
    | true => exact absurd ((hi.openSeeded ho).symm.trans hv) (by decide)
  obtain ⟨u, hu, rfl | ⟨ht, w', rfl⟩⟩ := simulates_step_withWords hv w hclosed t h
  · exact ⟨u, hu, rfl, rfl, rfl, fun _ => rfl⟩
  · exact ⟨_, hu, rfl, rfl, rfl, fun ht' => absurd (ht'.symm.trans ht) (by decide)⟩

/-! ### The toggles -/

/-- The parts of a state the draws come from and go to are the same: the PRNG, the cipher stream, the sub-range and the
input position. -/
structure SameStreams (t u : State) : Prop where
  prng : u.prng = t.prng
  cipher : u.cipher = t.cipher
  sub : u.sub = t.sub
  inPos : u.ports.inPos = t.ports.inPos

/-- The state with another value in `CONFIG`. -/
def withConfig (c : Word) (s : State) : State := s.setRegs { s.regs with config := c }

theorem emitHeader_withConfig (s : State) (c : Word) : emitHeader (withConfig c s) = withConfig c (emitHeader s) := by
  cases h : s.hdr.hdrDone <;> simp [emitHeader, withConfig, h]
  rfl

/-- Rule by rule: no branch on `CONFIG` stands before a draw, a byte of the cipher or a byte of `IN` (R15, R119). -/
theorem simulates_ruleOf_withConfig (i : Instr) (s : State) (c : Word) :
    Simulates SameStreams (ruleOf i s) (ruleOf i (withConfig c s)) := by
  cases i with
  | nop | prngSeed | subOpen | ciphInit | wrOpen | coreReset => exact simulates_next ⟨rfl, rfl, rfl, rfl⟩
  | prngNext | keyChecksum | rdEntry =>
    refine simulates_ite (fun _ => ?_) fun _ => ?_ <;> exact simulates_next ⟨rfl, rfl, rfl, rfl⟩
  | subRead =>
    simp only [ruleOf, subReadRule, withConfig, State.setRegs_sub, State.setRegs_ports]
    cases subRead s.sub s.ports <;> exact simulates_next ⟨rfl, rfl, rfl, rfl⟩
  | ciphDec | ciphEnc =>
    refine simulates_ite (fun _ => simulates_next ⟨rfl, rfl, rfl, rfl⟩) fun _ => ?_
    refine simulates_ite (fun _ => simulates_next ⟨rfl, rfl, rfl, rfl⟩) fun _ => ?_
    exact simulates_cipherResult fun _ _ _ => ⟨rfl, rfl, rfl, rfl⟩
  | rdOpen =>
    refine simulates_ite (fun _ => simulates_next ⟨rfl, rfl, rfl, rfl⟩) fun _ => ?_
    dsimp only
    split <;> split <;> exact simulates_next ⟨rfl, rfl, rfl, rfl⟩
  | rdHasnext =>
    refine simulates_ite (fun _ => simulates_next ⟨rfl, rfl, rfl, rfl⟩) fun _ => ?_
    refine simulates_ite (fun _ => ?_) fun _ => ?_ <;> exact simulates_next ⟨rfl, rfl, rfl, rfl⟩
  | rdPull =>
    simp only [ruleOf, rdPullRule, withConfig, State.setRegs_sub, State.setRegs_ports, State.setRegs_prng,
      State.setRegs_cipher]
    cases subRead s.sub s.ports with
    | none => exact simulates_next ⟨rfl, rfl, rfl, rfl⟩
    | some r => exact simulates_cipherResult fun _ _ _ => ⟨rfl, rfl, rfl, rfl⟩
  | rdPut =>
    rcases rdPutRule_cases s with ⟨hle, h⟩ | ⟨hlt, hb, h⟩ | ⟨hlt, hb, hroom, h⟩ | ⟨_, _, _, h⟩ <;> rw [ruleOf, h]
    · rw [rdPutRule_of_dropped (s := withConfig c s) hle]
      exact simulates_next ⟨rfl, rfl, rfl, rfl⟩
    · rw [rdPutRule_of_unbuffered (s := withConfig c s) hlt hb]
      exact simulates_next ⟨rfl, rfl, rfl, rfl⟩
    · rw [rdPutRule_of_room (s := withConfig c s) hlt hb hroom]
      exact simulates_next ⟨rfl, rfl, rfl, rfl⟩
    · exact simulates_fault _ _
  | rdFinish =>
    rcases rdFinishRule_cases s with ⟨_, _, h⟩ | ⟨_, h⟩ <;>
      rcases rdFinishRule_cases (withConfig c s) with ⟨_, _, h'⟩ | ⟨_, h'⟩ <;>
        rw [ruleOf, h, h'] <;> exact simulates_next ⟨rfl, rfl, rfl, rfl⟩
  | wrBegin =>
    rw [ruleOf, wrBeginRule_eq, wrBeginRule_eq, emitHeader_withConfig]
    exact simulates_next ⟨rfl, rfl, rfl, rfl⟩
  | wrPush =>
    rcases wrPushRule_cases s with ⟨out, q, ck, henc, hroom, hclen, h⟩ | ⟨_, f, h⟩ <;> rw [ruleOf, h]
    · rw [wrPushRule_of_room (s := withConfig c s) henc hroom hclen]
      exact simulates_next ⟨rfl, rfl, rfl, rfl⟩
    · exact simulates_fault f _
  | wrEnd =>
    rcases wrEndRule_cases s with ⟨_, h⟩ | ⟨_, h⟩ <;>
      rcases wrEndRule_cases (withConfig c s) with ⟨_, h'⟩ | ⟨_, h'⟩ <;>
        rw [ruleOf, h, h'] <;> exact simulates_next ⟨rfl, rfl, rfl, rfl⟩

theorem simulates_exec_withConfig (i : Instr) (s : State) (c : Word) :
    Simulates SameStreams (exec i s) (exec i (withConfig c s)) :=
  simulates_exec i rfl ⟨rfl, rfl, rfl, rfl⟩ fun _ => simulates_ruleOf_withConfig i (s.setErr none) c

/-- Settles O41: the runs over two values of `CONFIG`, rule by rule. -/
theorem togglesNeverChangeADraw : Obligations.TogglesNeverChangeADraw := by
  intro i s t c h
  obtain ⟨u, hu, hprng, hcipher, hsub, hpos⟩ := simulates_exec_withConfig i s c t h
  exact ⟨u, hu, congrArg Prng.idx hprng, congrArg Prng.valid hprng, fun _ => hprng, hcipher, hsub, hpos⟩

/-! ### Reset values and `STATUS` -/

/-- Settles O7: `CORE_RESET` is legal in every `SEQ` value, and its rule writes the reset column (R24). -/
theorem coreResetRestoresResetValues : Obligations.CoreResetRestoresResetValues := by
  intro s
  refine ⟨(prngUnspecified s.freeCount).w, s.freeCount + 16, ?_⟩
  rw [exec_eq_command, command_of_legal _ rfl]
  rfl

/-- Settles O51: `State.reset` holds the power-on column, whatever its PRNG words and its input (R23, R24). -/
theorem resetHoldsThePowerOnValues : Obligations.ResetHoldsThePowerOnValues :=
  ⟨State.reset.prng.w, State.reset.ports.input, rfl⟩

/-- Settles O52: the event is the reset of `CORE_RESET` with the host registers cleared too (R113). -/
theorem powerOnResetClearsTheCore : Obligations.PowerOnResetClearsTheCore := by
  intro s rest
  refine ⟨(prngUnspecified s.freeCount).w, s.freeCount + 16, ?_⟩
  rw [step_cons rfl]
  rfl

/-- Settles O54: every part of the invariant is evaluated at `State.reset`. -/
theorem resetMeetsTheInvariant : Obligations.ResetMeetsTheInvariant :=
  { subBudget := by decide
    inBounds := by decide
    scratchFits := nofun
    stickyBits := by decide
    configBits := by decide
    openSeeded := nofun
    unseededIdx := fun _ => rfl
    headerOut := nofun
    copiedCapped := nofun
    scratchIdle := fun _ _ => rfl
    scratchReader := nofun
    scratchWriter := nofun }

/-- The single-bit fields of `STATUS`, from bit 12 on (R14). -/
def statusFlags (s : State) : List Bool :=
  [s.prng.valid, s.cipher.ckSeeded, decide (s.cipher.dir = 1#1), s.hdr.hdrDone, s.entry.bufLatched]

/-- `STATUS` bit by bit: `ERR`, then `SEQ`, then the flags, then zeros (R14). -/
theorem statusWord_getLsbD (s : State) (i : Nat) :
    (statusWord s).getLsbD i =
      if i < 8 then (errCode s.regs.err).getLsbD i
      else if i < 12 then s.seq.code.getLsbD (i - 8)
      else (statusFlags s).getD (i - 12) false := by
  have hpacked : (statusWord s).getLsbD i =
      (0#15 ++ BitVec.ofBool s.entry.bufLatched ++ BitVec.ofBool s.hdr.hdrDone ++ s.cipher.dir ++
        BitVec.ofBool s.cipher.ckSeeded ++ BitVec.ofBool s.prng.valid ++ s.seq.code ++
        errCode s.regs.err : BitVec (15 + 1 + 1 + 1 + 1 + 1 + 4 + 8)).getLsbD i := rfl
  have hdir : s.cipher.dir[0] = decide (s.cipher.dir = 1#1) := by
    generalize s.cipher.dir = d
    revert d
    decide
  rw [hpacked]
  simp only [BitVec.getLsbD_append]
  by_cases h8 : i < 8
  · rw [if_pos h8, if_pos h8]
  · rw [if_neg h8, if_neg h8]
    by_cases h12 : i < 12
    · rw [if_pos h12, if_pos (by omega)]
    · obtain ⟨k, rfl⟩ : ∃ k, i = 12 + k := ⟨i - 12, by omega⟩
      have hk : 12 + k - 8 - 4 = k := by omega
      rw [if_neg h12, if_neg (by omega), hk, Nat.add_sub_cancel_left]
      rcases k with _ | _ | _ | _ | _ | k <;> simp [statusFlags, hdir]

/-- Only the 17 low bits of `STATUS` exist (R14). -/
theorem statusWord_toNat_lt (s : State) : (statusWord s).toNat < 2 ^ 17 := by
  apply Nat.lt_pow_two_of_testBit
  intro i hi
  obtain ⟨k, rfl⟩ : ∃ k, i = 17 + k := ⟨i - 17, by omega⟩
  have hk : 17 + k - 12 = k + 5 := by omega
  rw [BitVec.testBit_toNat, statusWord_getLsbD, if_neg (by omega), if_neg (by omega), hk]
  rfl

/-- Settles O29: the fields are read off bit by bit; the read and the ignored write are one step each. -/
theorem statusPacksItsFields : Obligations.StatusPacksItsFields := by
  refine ⟨rfl, fun s v rest => ⟨rfl, rfl, ?_, ?_, ?_, ?_, ?_, ?_, ?_, statusWord_toNat_lt s, rfl⟩⟩
  · ext i hi
    simp [statusWord_getLsbD, hi]
  · ext i hi
    have h12 : 8 + i < 12 := by omega
    simp [statusWord_getLsbD, h12, BitVec.getLsbD_eq_getElem hi]
  all_goals
    rw [statusWord_getLsbD]
    rfl

end Sys2Proof.Proofs

namespace Sys2Proof.Proofs

open Sys2Proof.Machine

/-! ### What a step does to the byte ports -/

/-- Two records of the ports, the second later in a run: `INPUT` is the same, `IN_POS` did not go back, and `OUT` was
only appended to (R30, R31). -/
structure PortsAdvance (p q : Ports) : Prop where
  input : q.input = p.input
  inPos : p.inPos ≤ q.inPos
  out : p.out <+: q.out

theorem PortsAdvance.refl (p : Ports) : PortsAdvance p p := ⟨rfl, Nat.le_refl _, List.prefix_rfl⟩

/-- The three things a command can do to the ports: nothing; if it is one of the four of R30, move `IN_POS` on; if it is
one of the four of R31, append to `OUT`. -/
inductive PortEffect (i : Instr) (p : Ports) : Ports → Prop where
  | kept : PortEffect i p p
  | consumed (hi : i ∈ [.rdOpen, .rdEntry, .subRead, .rdPull]) (n : Nat) :
      PortEffect i p { p with inPos := p.inPos + n }
  | appended (hi : i ∈ [.rdPut, .rdFinish, .wrBegin, .wrEnd]) (bs : List Byte) : PortEffect i p (outWrite bs p)

/-- For a kept port that a field lemma of the state gives: compared by evaluation, the two states would be run through
the seeding first. -/
theorem PortEffect.of_eq {i : Instr} {p q : Ports} (h : q = p) : PortEffect i p q := h ▸ .kept

/-- What a full global header takes from the ports (R79). -/
theorem headerTaken_ports (s : State) :
    (headerTaken s).ports = { s.ports with inPos := s.ports.inPos + 8 } := by
  simp [headerTaken, inRead32_spec]

theorem ruleOf_ports (i : Instr) (s : State) : Ensures (fun t => PortEffect i s.ports t.ports) (ruleOf i s) := by
  cases i with
  | nop | subOpen | ciphInit | coreReset => exact ensures_next .kept
  | prngSeed => exact ensures_next (.of_eq (State.setPrng_ports s _))
  | wrOpen => exact ensures_next (.of_eq (by simp))
  | prngNext => rcases prngNextRule_cases s with ⟨_, h⟩ | ⟨_, h⟩ <;> rw [ruleOf, h] <;> exact ensures_next .kept
  | keyChecksum => rcases keyChecksumRule_cases s with ⟨_, h⟩ | ⟨_, h⟩ <;> rw [ruleOf, h] <;> exact ensures_next .kept
  | subRead =>
    rcases subReadRule_cases s with ⟨_, h⟩ | ⟨_, _, b, h⟩ <;> rw [ruleOf, h]
    · exact ensures_next .kept
    · exact ensures_next (.consumed (by decide) 1)
  | ciphDec =>
    rcases ciphDecRule_cases s with ⟨_, h⟩ | ⟨_, _, h⟩ | ⟨_, _, h⟩ <;> rw [ruleOf, h]
    · exact ensures_next .kept
    · exact ensures_next .kept
    · exact cipherResult_ensures fun _ _ _ _ => .kept
  | ciphEnc =>
    rcases ciphEncRule_cases s with ⟨_, h⟩ | ⟨_, _, h⟩ | ⟨_, _, h⟩ <;> rw [ruleOf, h]
    · exact ensures_next .kept
    · exact ensures_next .kept
    · exact cipherResult_ensures fun _ _ _ _ => .kept
  | rdOpen =>
    have htaken : PortEffect .rdOpen s.ports (headerTaken s).ports :=
      headerTaken_ports s ▸ .consumed (by decide) 8
    rcases rdOpenRule_cases s with ⟨_, h⟩ | ⟨_, _, h⟩ | ⟨_, _, h⟩ <;> rw [ruleOf, h]
    · exact ensures_next (.consumed (by decide) (inAvail s.ports))
    · exact ensures_next htaken
    · exact ensures_next htaken
  | rdHasnext =>
    rcases rdHasnextRule_cases s with ⟨_, h⟩ | ⟨_, _, h⟩ | ⟨_, _, h⟩ <;> rw [ruleOf, h] <;> exact ensures_next .kept
  | rdEntry =>
    rcases rdEntryRule_cases s with ⟨_, h⟩ | ⟨_, h⟩ <;> rw [ruleOf, h]
    · exact ensures_next (.consumed (by decide) (inAvail s.ports))
    · exact ensures_next (.consumed (by decide) 12)
  | rdPull =>
    rcases rdPullRule_cases s with ⟨_, h⟩ | ⟨_, _, b, h⟩ <;> rw [ruleOf, h]
    · exact ensures_next .kept
    · exact cipherResult_ensures fun _ _ _ _ => .consumed (by decide) 1
  | rdPut =>
    rcases rdPutRule_cases s with ⟨_, h⟩ | ⟨_, _, h⟩ | ⟨_, _, _, h⟩ | ⟨_, _, _, h⟩ <;> rw [ruleOf, h]
    · exact ensures_next .kept
    · exact ensures_next (.appended (by decide) _)
    · exact ensures_next .kept
    · exact ensures_fault _
  | rdFinish =>
    rcases rdFinishRule_cases s with ⟨_, _, h⟩ | ⟨_, h⟩ <;> rw [ruleOf, h]
    · exact ensures_next .kept
    · exact ensures_next (.appended (by decide) _)
  | wrBegin =>
    have hout : PortEffect .wrBegin s.ports (emitHeader s).ports := by
      rcases emitHeader_cases s with ⟨_, h⟩ | ⟨_, n, hdr, bs, _, h⟩ <;> rw [h]
      · exact .kept
      · exact .appended (by decide) bs
    rw [ruleOf, wrBeginRule_eq]
    exact ensures_next hout
  | wrPush =>
    rcases wrPushRule_cases s with ⟨_, _, _, _, _, _, h⟩ | ⟨_, f, h⟩ <;> rw [ruleOf, h]
    · exact ensures_next .kept
    · exact ensures_fault f
  | wrEnd =>
    rcases wrEndRule_cases s with ⟨_, h⟩ | ⟨_, h⟩ <;> rw [ruleOf, h]
    · exact ensures_next .kept
    · exact ensures_next (.appended (by decide) _)

theorem exec_ports (i : Instr) (s : State) : Ensures (fun t => PortEffect i s.ports t.ports) (exec i s) :=
  exec_ensures i s .kept fun _ => ruleOf_ports i (s.setErr none)

/-- Each of the three effects is an advance. -/
theorem PortEffect.advance {i : Instr} {p q : Ports} (h : PortEffect i p q) : PortsAdvance p q := by
  cases h with
  | kept => exact .refl p
  | consumed _ n => exact ⟨rfl, Nat.le_add_right _ n, List.prefix_rfl⟩
  | appended _ bs => exact ⟨rfl, Nat.le_refl _, List.prefix_append _ bs⟩

theorem PortEffect.out_eq {i : Instr} {p q : Ports} (h : PortEffect i p q)
    (hi : i ∉ [.rdPut, .rdFinish, .wrBegin, .wrEnd]) : q.out = p.out := by
  cases h with
  | kept => rfl
  | consumed _ n => rfl
  | appended hmem bs => exact absurd hmem hi

theorem PortEffect.inPos_eq {i : Instr} {p q : Ports} (h : PortEffect i p q)
    (hi : i ∉ [.rdOpen, .rdEntry, .subRead, .rdPull]) : q.inPos = p.inPos := by
  cases h with
  | kept => rfl
  | consumed hmem n => exact absurd hmem hi
  | appended _ bs => rfl

theorem runWord_ports (w : Word) (s : State) : Ensures (fun t => PortsAdvance s.ports t.ports) (runWord w s) :=
  runWord_ensures w s (.refl _) fun i t h => (exec_ports i s t h).advance

/-- Of the events only a command word can move a port: a read, a write of a register and a power-on reset keep them
(R23, R28). -/
theorem handleEvent_ports (e : HostEvent) (s : State) :
    Ensures (fun t => PortsAdvance s.ports t.ports) (handleEvent e s) := by
  intro t h
  cases e with
  | memRead addr nbytes =>
    obtain ⟨v, n, rfl⟩ := memRead_next h
    exact .refl _
  | memWrite addr nbytes v =>
    rcases memWrite_next h with ⟨_, hrun⟩ | ⟨_, a0, a1, c, _, rfl⟩
    · exact runWord_ports v s t hrun
    · exact .refl _
  | powerOnReset =>
    cases h
    exact .refl _

theorem step_ports (s : State) : Ensures (fun t => PortsAdvance s.ports t.ports) (step s) := by
  cases hev : s.events with
  | nil =>
    rw [step_nil hev]
    exact ensures_next (.refl _)
  | cons e rest =>
    rw [step_cons hev]
    exact handleEvent_ports e (s.setEvents rest)

/-- Settles O38: a step advances the ports, and of the effects a command can have only an append writes `OUT`. -/
theorem outputIsOnlyAppendedTo : Obligations.OutputIsOnlyAppendedTo :=
  ⟨fun s t h => (step_ports s t h).out, fun i s t h => (exec_ports i s t h).out_eq⟩

/-- Settles O39: a step advances the ports, and of the effects a command can have only a read moves `IN_POS`. -/
theorem inputIsConsumedForwardOnly : Obligations.InputIsConsumedForwardOnly :=
  ⟨fun s t h => ⟨(step_ports s t h).input, (step_ports s t h).inPos⟩, fun i s t h => (exec_ports i s t h).inPos_eq⟩

/-! ### The register map -/

/-- The registers lie below 0x070, and the sixteen PRNG words from 0x080 to 0x0C0 (R27). -/
theorem regOffset_bounds (r : Reg) : regOffset r < 0x070 ∨ 0x080 ≤ regOffset r ∧ regOffset r < 0x0C0 := by
  cases r with
  | prngW k => exact .inr (by simp only [regOffset]; omega)
  | _ => exact .inl (by decide)

/-- The offsets around the PRNG words are reserved (R27). -/
theorem regAt_eq_none {addr : Nat} (h : 0x070 ≤ addr ∧ addr < 0x080 ∨ 0x0C0 ≤ addr) : regAt addr = none := by
  cases hr : regAt addr with
  | none => rfl
  | some r =>
    have hbounds := regOffset_bounds r
    rw [regOffset_of_regAt hr] at hbounds
    omega

/-- An access of one of R29's kinds has one of its three faults. -/
theorem accessFault_of_irregular {addr nbytes : Nat} (h : nbytes ≠ 4 ∨ addr % 4 ≠ 0 ∨ 0x1000 ≤ addr) :
    ∃ f ∈ [Fault.accessWidth, .accessMisaligned, .accessOutsideWindow], accessFault addr nbytes = some f := by
  unfold accessFault Config.regSpace
  split
  · exact ⟨_, by decide, rfl⟩
  · split
    · exact ⟨_, by decide, rfl⟩
    · exact ⟨.accessOutsideWindow, by decide, if_neg (by omega)⟩

/-- Settles O28: both accesses end in the fault of their width, alignment or window before they look at the map. -/
theorem irregularAccessHasNoStep : Obligations.IrregularAccessHasNoStep := by
  intro s addr nbytes v rest h
  obtain ⟨f, hmem, hf⟩ := accessFault_of_irregular h
  refine ⟨f, hmem, ?_, ?_⟩
  · rw [step_memRead, memRead, hf]
  · rw [step_memWrite, memWrite, hf]

/-! ### Writes to the host port -/

theorem step_memWrite_reg (r : Reg) (s : State) (v : Word) (rest : List HostEvent) :
    step { s with events := .memWrite (regOffset r) 4 v :: rest } = regWrite r v { s with events := rest } := by
  rw [step_memWrite, memWrite, accessFault_regOffset, regAt_regOffset]

/-- The four writable registers stand below 0x010; every other is read-only (R27, R28). -/
theorem regWrite_of_readOnly {r : Reg} (h : 0x010 ≤ regOffset r) (v : Word) (s : State) :
    regWrite r v s = .next s := by
  cases r with
  | cmd | arg0 | arg1 | config => exact absurd h (by decide)
  | _ => rfl

/-- Settles O27: the three writable registers by the map, every other offset as a read-only register or a reserved
one. -/
theorem memWriteChangesOnlyItsRegister : Obligations.MemWriteChangesOnlyItsRegister := by
  refine fun s v rest => ⟨step_memWrite_reg .arg0 s v rest, step_memWrite_reg .arg1 s v rest,
    step_memWrite_reg .config s v rest, fun addr halign hlow hhigh => ?_⟩
  have hregular := (accessFault_eq_none addr 4).2 ⟨rfl, halign, hhigh⟩
  dsimp only
  rw [step_memWrite, memWrite, hregular]
  cases hr : regAt addr with
  | none => rfl
  | some r => exact regWrite_of_readOnly (by rwa [regOffset_of_regAt hr]) v _

/-! ### Reads of the host port -/

theorem lo32_eq_ofNat (v : DWord) : lo32 v = BitVec.ofNat 32 (v.toNat % 2 ^ 32) := by
  apply BitVec.eq_of_toNat_eq
  simp [lo32]

theorem hi32_eq_ofNat (v : DWord) : hi32 v = BitVec.ofNat 32 (v.toNat / 2 ^ 32) := by
  apply BitVec.eq_of_toNat_eq
  simp [hi32, Nat.shiftRight_eq_div_pow]

/-- The high half of a length in 64 bits (`SCRATCH_LEN`, R27). -/
theorem hi32_ofNat (n : Nat) : hi32 (BitVec.ofNat 64 n) = BitVec.ofNat 32 (n / 2 ^ 32 % 2 ^ 32) := by
  have hsplit : 2 ^ 64 = 2 ^ 32 * 2 ^ 32 := by decide
  rw [hi32_eq_ofNat, BitVec.toNat_ofNat, hsplit, Nat.mod_mul_right_div_self]

theorem step_memRead_reg (r : Reg) (s : State) (rest : List HostEvent) :
    step { s with events := .memRead (regOffset r) 4 :: rest } =
      .next { s with
        events := rest
        hostReads := s.hostReads ++ [regValue r s]
        freeCount := s.freeCount + freeWordsRead r s } := by
  rw [step_memRead, memRead, accessFault_regOffset, regAt_regOffset]
  cases r <;> rfl

/-- The registers below the PRNG words: all of the map but `PRNG_W<k>` (R27). -/
def plainRegs : List Reg := allRegs.take 28

/-- Only an unseeded `PRNG_W<k>` takes a free word (log 2). -/
theorem freeWordsRead_of_plain {r : Reg} (h : r ∈ plainRegs) (s : State) : freeWordsRead r s = 0 := by
  cases r with
  | prngW k => exact absurd h (by revert k; decide)
  | _ => rfl

theorem step_memRead_plain {r : Reg} (h : r ∈ plainRegs) (s : State) (rest : List HostEvent) :
    step { s with events := .memRead (regOffset r) 4 :: rest } =
      .next { s with events := rest, hostReads := s.hostReads ++ [regValue r s] } := by
  rw [step_memRead_reg, freeWordsRead_of_plain h]
  rfl

theorem step_memRead_prngW {s : State} (hv : s.prng.valid = true) (k : Fin 16) (rest : List HostEvent) :
    step { s with events := .memRead (regOffset (.prngW k)) 4 :: rest } =
      .next { s with events := rest, hostReads := s.hostReads ++ [s.prng.w[k]] } := by
  rw [step_memRead_reg]
  simp [regValue, freeWordsRead, hv]

theorem step_memRead_reserved {addr : Nat} (halign : addr % 4 = 0)
    (h : 0x070 ≤ addr ∧ addr < 0x080 ∨ 0x0C0 ≤ addr ∧ addr < 0x1000) (s : State) (rest : List HostEvent) :
    step { s with events := .memRead addr 4 :: rest } =
      .next { s with events := rest, hostReads := s.hostReads ++ [0#32] } := by
  have hregular := (accessFault_eq_none addr 4).2 ⟨rfl, halign, by omega⟩
  rw [step_memRead, memRead, hregular, regAt_eq_none (by omega)]
  rfl

/-- Settles O26: the table is the map's plain registers with their values; the PRNG words and the reserved offsets are
read by the map too. -/
theorem memReadReturnsTheMappedRegister : Obligations.MemReadReturnsTheMappedRegister := by
  intro s rest read returns pos clen table
  have htable : table = plainRegs.map fun r => (regOffset r, regValue r s) := by
    simp [table, pos, clen, plainRegs, allRegs, regOffset, regValue, configMask, stickyMask, lo32_eq_ofNat,
      hi32_eq_ofNat s.cipher.pos, hi32_eq_ofNat s.entry.clen, hi32_ofNat]
  refine ⟨fun e he => ?_, fun k hk hv => ?_, fun k hk hv => ?_, fun addr halign h => ?_⟩
  · rw [htable] at he
    obtain ⟨r, hr, rfl⟩ := List.mem_map.1 he
    exact step_memRead_plain hr s rest
  · have hword : s.prng.word (BitVec.ofNat 4 k) = s.prng.w[k] := by
      simp [Prng.word, Nat.mod_eq_of_lt hk]
    rw [hword]
    exact step_memRead_prngW hv ⟨k, hk⟩ rest
  · exact ⟨_, _, step_memRead_reg (.prngW ⟨k, hk⟩) s rest⟩
  · exact step_memRead_reserved halign h s rest

/-! ### Byte order -/

/-- A byte joined below a word. -/
theorem toNat_append_byte {n : Nat} (x : BitVec n) (b : Byte) : (x ++ b).toNat = x.toNat * 2 ^ 8 + b.toNat := by
  rw [BitVec.toNat_append, ← Nat.shiftLeft_add_eq_or_of_lt b.isLt, Nat.shiftLeft_eq]

theorem be32_toNat (b0 b1 b2 b3 : Byte) :
    (be32 b0 b1 b2 b3).toNat = b0.toNat * 2 ^ 24 + b1.toNat * 2 ^ 16 + b2.toNat * 2 ^ 8 + b3.toNat := by
  rw [be32_eq_append, toNat_append_byte, toNat_append_byte, toNat_append_byte]
  omega

theorem bytesBE32_be32 (b0 b1 b2 b3 : Byte) : bytesBE32 (be32 b0 b1 b2 b3) = [b0, b1, b2, b3] := by
  rw [be32_eq_append, bytesBE32_append]

/-- The four bytes of a word, joined in their order, are the word. -/
theorem be32_extractLsb' (v : Word) :
    be32 (v.extractLsb' 24 8) (v.extractLsb' 16 8) (v.extractLsb' 8 8) (v.extractLsb' 0 8) = v := by
  apply BitVec.eq_of_toNat_eq
  simp only [be32_toNat, BitVec.extractLsb'_toNat, Nat.shiftRight_eq_div_pow]
  omega

/-- Settles O57: `BE32` is the sum of its bytes by weight, and `BYTES_BE32` takes it apart and is put together by it. -/
theorem bigEndianBytesAreInverse : Obligations.BigEndianBytesAreInverse :=
  ⟨fun b0 b1 b2 b3 => ⟨be32_toNat b0 b1 b2 b3, bytesBE32_be32 b0 b1 b2 b3⟩,
    fun v => ⟨_, _, _, _, rfl, be32_extractLsb' v⟩⟩

end Sys2Proof.Proofs

namespace Sys2Proof.Proofs

open Sys2Proof.Machine

/-! ### The command word as a number -/

theorem opcField_toNat (w : Word) : (opcField w).toNat = w.toNat % 256 := by
  simp [opcField]

theorem rsvField_toNat (w : Word) : (rsvField w).toNat = w.toNat / 256 := by
  simp only [rsvField, BitVec.extractLsb'_toNat, Nat.shiftRight_eq_div_pow]
  omega

theorem encode_toNat (i : Instr) : (encode i).toNat = (opcodeOf i).toNat := by
  cases i <;> rfl

/-- The two fields are the whole word, so they tell which command's encoding it is (R41). -/
theorem eq_encode_iff_fields (w : Word) (i : Instr) : w = encode i ↔ rsvField w = 0#24 ∧ opcField w = opcodeOf i := by
  have hopc := (opcodeOf i).isLt
  rw [← BitVec.toNat_inj, ← BitVec.toNat_inj, ← BitVec.toNat_inj, encode_toNat, rsvField_toNat, opcField_toNat,
    BitVec.toNat_ofNat]
  omega

/-! ### The decoder -/

/-- The opcode map and the encoder's table are the same table (R43). -/
theorem opcodeMap_eq_some_iff (opc : Byte) (i : Instr) : opcodeMap opc = some i ↔ opc = opcodeOf i := by
  constructor
  · intro h
    unfold opcodeMap at h
    split at h <;> cases h <;> exact BitVec.eq_of_toNat_eq (by assumption)
  · rintro rfl
    cases i <;> rfl

theorem decode_eq_ok_iff_fields (w : Word) (i : Instr) :
    decode w = .ok i ↔ rsvField w = 0#24 ∧ opcodeMap (opcField w) = some i := by
  unfold decode
  by_cases hrsv : rsvField w = 0#24
  · cases opcodeMap (opcField w) <;> simp [hrsv]
  · simp [hrsv]

/-- Settles O1: the decoder asks of the two fields what they are in the encoding. -/
theorem decodeAcceptsExactlyTheEncodedWords : Obligations.DecodeAcceptsExactlyTheEncodedWords := by
  intro w i
  rw [decode_eq_ok_iff_fields, opcodeMap_eq_some_iff, eq_encode_iff_fields]

theorem decode_encode (i : Instr) : decode (encode i) = .ok i :=
  (decodeAcceptsExactlyTheEncodedWords _ i).2 rfl

/-- Settles O2: each row is the encoding of its command. -/
theorem opcodeMapWordsDecode : Obligations.OpcodeMapWordsDecode :=
  ⟨decode_encode .nop, decode_encode .prngSeed, decode_encode .prngNext, decode_encode .keyChecksum,
    decode_encode .subOpen, decode_encode .subRead, decode_encode .ciphInit, decode_encode .ciphDec,
    decode_encode .ciphEnc, decode_encode .rdOpen, decode_encode .rdHasnext, decode_encode .rdEntry,
    decode_encode .rdPull, decode_encode .rdPut, decode_encode .rdFinish, decode_encode .wrOpen,
    decode_encode .wrBegin, decode_encode .wrPush, decode_encode .wrEnd, decode_encode .coreReset⟩

/-! ### A word written to `CMD` -/

/-- The step of such a write is the word's own (R42, R116). -/
theorem step_writeCmd {s : State} {w : Word} {rest : List HostEvent} (h : s.events = .memWrite 0x000 4 w :: rest) :
    step s = runWord w { s with events := rest } := by
  have hs : s = { s with events := .memWrite 0x000 4 w :: rest } := h ▸ rfl
  rw [hs]
  exact step_memWrite_reg .cmd s w rest

theorem runWord_of_decode {w : Word} {i : Instr} (h : decode w = .ok i) (s : State) : runWord w s = exec i s := by
  simp [runWord, h]

/-- A word that no command encodes raises `ILLEGAL_COMMAND` (R42). -/
theorem runWord_of_not_encoded {w : Word} (h : ∀ i, w ≠ encode i) (s : State) :
    runWord w s = .next (raise .illegalCommand (s.setErr none)) := by
  cases hd : decode w with
  | ok i => exact absurd ((decodeAcceptsExactlyTheEncodedWords w i).1 hd) (h i)
  | error _ => simp [runWord, hd]

/-- Settles O4: the step is that of the word, and the word runs what it decodes to. -/
theorem stepRunsTheDecodedCommand : Obligations.StepRunsTheDecodedCommand := by
  intro s w i rest hevents hdecode
  rw [step_writeCmd hevents, runWord_of_decode hdecode]

/-- Settles O3: a command's encoding has `RSV` = 0 and an assigned opcode, so the word encodes no command. -/
theorem illegalWordRaisesAndRunsNothing : Obligations.IllegalWordRaisesAndRunsNothing := by
  intro s w rest hbad
  have hnone (i : Instr) : w ≠ encode i := by
    rintro rfl
    rw [encode_toNat] at hbad
    revert hbad
    cases i <;> decide
  rw [step_writeCmd rfl, runWord_of_not_encoded hnone]
  rfl

/-! ### How a rule ends -/

/-- Which rule raises which error, and the guard that stands before the raise (R99). -/
inductive RuleError (s : State) : Instr → Error → Prop where
  | decDirection (hd : s.cipher.dir ≠ 0#1) : RuleError s .ciphDec .unsupportedOperation
  | encDirection (hd : s.cipher.dir ≠ 1#1) : RuleError s .ciphEnc .unsupportedOperation
  | noSeed {i : Instr} (hi : i ∈ [.prngNext, .keyChecksum, .ciphDec, .ciphEnc]) (hv : s.prng.valid = false) :
      RuleError s i .unseeded
  | shortHeader {i : Instr} (hi : i ∈ [.rdOpen, .rdEntry]) : RuleError s i .truncated
  | keyMismatch (hc : skipKeyChk s.regs.config = false) : RuleError s .rdOpen .keyChecksum
  | lengthMismatch (hc : skipLenChk s.regs.config = false) : RuleError s .rdFinish .sizeMismatch
  | entryMismatch (hc : skipEntryChk s.regs.config = false) : RuleError s .rdFinish .entryChecksum
  | oversize : RuleError s .wrEnd .sizeOverflow

/-- The faults of the commands: the stuck cases that are not a host access's (R22, R73, I3). -/
def commandFaults : List Fault := [.scratchFull, .posExhausted, .clenExhausted]

/-- The three ways a rule can end: it succeeds, raises one of its errors, or is stuck. -/
inductive RuleEnd (i : Instr) (s : State) : Result → Prop where
  | succeeds {t : State} (ht : t.regs.err = none) : RuleEnd i s (.next t)
  | raises {e : Error} (he : RuleError s i e) (t : State) : RuleEnd i s (.next (raise e t))
  | stuck {f : Fault} (hf : f ∈ commandFaults) : RuleEnd i s (.fault f)

theorem cipherResult_end {i : Instr} {s t : State} (ht : t.regs.err = none) (r : Option (Byte × Prng × Cipher)) :
    RuleEnd i s (cipherResult r t) := by
  rcases r with _ | ⟨out, q, c⟩
  · exact .stuck (by decide)
  · exact .succeeds ht

/-- The checks of `RD_FINISH`, each under its toggle (R84). -/
theorem finishError_ruleError {s : State} {e : Error} (h : finishError s = some e) : RuleError s .rdFinish e := by
  unfold finishError at h
  split at h
  next hlen =>
    cases h
    exact .lengthMismatch hlen.1
  next =>
    split at h
    next hchk =>
      cases h
      exact .entryMismatch hchk.1
    next => cases h

theorem wrPushRule_fault {s : State} {f : Fault} (h : wrPushRule s = .fault f) : f ∈ commandFaults := by
  unfold wrPushRule at h
  split at h
  · cases h
    decide
  · split at h
    · cases h
      decide
    · split at h <;> cases h
      decide

theorem ruleOf_end (i : Instr) {s : State} (hs : s.regs.err = none) : RuleEnd i s (ruleOf i s) := by
  cases i with
  | nop | prngSeed | subOpen | ciphInit | wrOpen => exact .succeeds hs
  | coreReset => exact .succeeds rfl
  | prngNext =>
    rcases prngNextRule_cases s with ⟨hv, h⟩ | ⟨_, h⟩ <;> rw [ruleOf, h]
    · exact .raises (.noSeed (by decide) hv) s
    · exact .succeeds hs
  | keyChecksum =>
    rcases keyChecksumRule_cases s with ⟨hv, h⟩ | ⟨_, h⟩ <;> rw [ruleOf, h]
    · exact .raises (.noSeed (by decide) hv) s
    · exact .succeeds hs
  | subRead => rcases subReadRule_cases s with ⟨_, h⟩ | ⟨_, _, _, h⟩ <;> rw [ruleOf, h] <;> exact .succeeds hs
  | ciphDec =>
    rcases ciphDecRule_cases s with ⟨hd, h⟩ | ⟨_, hv, h⟩ | ⟨_, _, h⟩ <;> rw [ruleOf, h]
    · exact .raises (.decDirection hd) s
    · exact .raises (.noSeed (by decide) hv) s
    · exact cipherResult_end hs _
  | ciphEnc =>
    rcases ciphEncRule_cases s with ⟨hd, h⟩ | ⟨_, hv, h⟩ | ⟨_, _, h⟩ <;> rw [ruleOf, h]
    · exact .raises (.encDirection hd) s
    · exact .raises (.noSeed (by decide) hv) s
    · exact cipherResult_end hs _
  | rdOpen =>
    rcases rdOpenRule_cases s with ⟨_, h⟩ | ⟨_, _, h⟩ | ⟨_, ⟨_, hc⟩, h⟩ <;> rw [ruleOf, h]
    · exact .raises (.shortHeader (by decide)) _
    · exact .succeeds hs
    · exact .raises (.keyMismatch hc) _
  | rdHasnext =>
    rcases rdHasnextRule_cases s with ⟨_, h⟩ | ⟨_, _, h⟩ | ⟨_, _, h⟩ <;> rw [ruleOf, h] <;> exact .succeeds hs
  | rdEntry =>
    rcases rdEntryRule_cases s with ⟨_, h⟩ | ⟨_, h⟩ <;> rw [ruleOf, h]
    · exact .raises (.shortHeader (by decide)) _
    · exact .succeeds hs
  | rdPull =>
    rcases rdPullRule_cases s with ⟨_, h⟩ | ⟨_, _, _, h⟩ <;> rw [ruleOf, h]
    · exact .succeeds hs
    · exact cipherResult_end (t := byteTaken s) hs _
  | rdPut =>
    rcases rdPutRule_cases s with ⟨_, h⟩ | ⟨_, _, h⟩ | ⟨_, _, _, h⟩ | ⟨_, _, _, h⟩ <;> rw [ruleOf, h]
    · exact .succeeds hs
    · exact .succeeds hs
    · exact .succeeds hs
    · exact .stuck (by decide)
  | rdFinish =>
    rcases rdFinishRule_cases s with ⟨_, he, h⟩ | ⟨_, h⟩ <;> rw [ruleOf, h]
    · exact .raises (finishError_ruleError he) _
    · exact .succeeds hs
  | wrBegin =>
    rw [ruleOf, wrBeginRule_eq]
    rcases emitHeader_cases s with ⟨_, h⟩ | ⟨_, _, _, _, _, h⟩ <;> rw [h] <;> exact .succeeds hs
  | wrPush =>
    rcases wrPushRule_cases s with ⟨_, _, _, _, _, _, h⟩ | ⟨_, f, h⟩
    · rw [ruleOf, h]
      exact .succeeds hs
    · rw [ruleOf, h]
      exact .stuck (wrPushRule_fault h)
  | wrEnd =>
    rcases wrEndRule_cases s with ⟨_, h⟩ | ⟨_, h⟩ <;> rw [ruleOf, h]
    · exact .raises .oversize _
    · exact .succeeds hs

/-- A rule that ends with an error raised it. -/
theorem RuleEnd.ruleError {i : Instr} {s t : State} {e : Error} (h : RuleEnd i s (.next t))
    (he : t.regs.err = some e) : RuleError s i e := by
  cases h with
  | succeeds ht => simp [ht] at he
  | raises hraised u =>
    cases he
    exact hraised

theorem RuleEnd.fault_mem {i : Instr} {s : State} {f : Fault} (h : RuleEnd i s (.fault f)) : f ∈ commandFaults := by
  cases h with
  | stuck hf => exact hf

/-! ### Legality -/

/-- Of the rules only those of the two cipher byte commands raise `UNSUPPORTED_OPERATION` (R76, R77). -/
theorem RuleError.eq_cipherByte {s : State} {i : Instr} (h : RuleError s i .unsupportedOperation) :
    i = .ciphDec ∨ i = .ciphEnc := by
  cases h with
  | decDirection _ => exact .inl rfl
  | encDirection _ => exact .inr rfl

/-- Settles O5: the table is `legal`; dispatch refuses what it excludes, and what it admits is left to the rule. -/
theorem commandOutsideItsSeqIsRefused : Obligations.CommandOutsideItsSeqIsRefused := by
  intro i s isLegal
  have hlegal : isLegal ↔ legal i s.seq = true := by
    cases i <;> simp [isLegal, legal, or_assoc]
  rw [hlegal, exec_eq_command]
  refine ⟨fun hno => ?_, fun hl hdec henc t hnext herr => ?_⟩
  · rw [command_of_illegal _ (Bool.eq_false_iff.2 hno)]
    rfl
  · rw [command_of_legal _ hl] at hnext
    have hend : RuleEnd i (s.setErr none) (.next t) := hnext ▸ ruleOf_end i rfl
    rcases (hend.ruleError herr).eq_cipherByte with h | h
    · exact hdec h
    · exact henc h

/-! ### Faults of a step -/

theorem exec_fault {i : Instr} {s : State} {f : Fault} (h : exec i s = .fault f) : f ∈ commandFaults := by
  rw [exec_eq_command] at h
  rcases command_cases i (ruleOf i) s with ⟨_, hc⟩ | ⟨_, hc⟩ <;> rw [hc] at h
  · have hend : RuleEnd i (s.setErr none) (.fault f) := h ▸ ruleOf_end i rfl
    exact hend.fault_mem
  · cases h

theorem runWord_fault {w : Word} {s : State} {f : Fault} (h : runWord w s = .fault f) : f ∈ commandFaults := by
  unfold runWord at h
  split at h
  · exact exec_fault h
  · cases h

theorem regWrite_fault {r : Reg} {v : Word} {s : State} {f : Fault} (h : regWrite r v s = .fault f) :
    f ∈ commandFaults := by
  by_cases hr : r = .cmd
  · subst hr
    exact runWord_fault h
  · obtain ⟨_, _, _, _, hnext⟩ := regWrite_of_ne_cmd hr v s
    cases hnext.symm.trans h

/-- Past its check a well-formed event can be stuck only in the command it runs (R29). -/
theorem handleEvent_fault {e : HostEvent} (hwf : e.wf = true) {s : State} {f : Fault}
    (h : handleEvent e s = .fault f) : f ∈ commandFaults := by
  cases e with
  | memRead addr nbytes =>
    have hregular := (accessFault_eq_none_iff_wf addr nbytes).2 hwf
    rw [handleEvent, memRead, hregular] at h
    cases hr : regAt addr <;> simp [hr] at h
  | memWrite addr nbytes v =>
    have hregular := (accessFault_eq_none_iff_wf addr nbytes).2 hwf
    rw [handleEvent, memWrite, hregular] at h
    cases hr : regAt addr with
    | none => simp [hr] at h
    | some r =>
      simp only [hr] at h
      exact regWrite_fault h
  | powerOnReset => cases h

/-! ### Host programs -/

theorem wrEvent_wf (r : Reg) (v : Word) : (wrEvent r v).wf = true :=
  (accessFault_eq_none_iff_wf _ _).1 (accessFault_regOffset r)

theorem rdEvent_wf (r : Reg) : (rdEvent r).wf = true :=
  (accessFault_eq_none_iff_wf _ _).1 (accessFault_regOffset r)

/-- A statement is written in accesses of registers, whatever its immediates (R53, R54). -/
theorem assembleStmt_access {st : Stmt} {e : HostEvent} (h : e ∈ assembleStmt st) :
    (∃ r v, e = wrEvent r v) ∨ ∃ r, e = rdEvent r := by
  cases st with
  | rd r => exact .inr ⟨r, List.mem_singleton.1 h⟩
  | wr | cmd | config => exact .inl ⟨_, _, List.mem_singleton.1 h⟩
  | cmdArg =>
    simp only [assembleStmt, List.mem_cons, List.not_mem_nil, or_false] at h
    rcases h with h | h <;> exact .inl ⟨_, _, h⟩
  | wrOpenArgs | wrEndSize =>
    simp only [assembleStmt, List.mem_cons, List.not_mem_nil, or_false] at h
    rcases h with h | h | h <;> exact .inl ⟨_, _, h⟩

theorem assemble_wf {prog : List Stmt} {e : HostEvent} (h : e ∈ assemble prog) : e.wf = true := by
  obtain ⟨st, _, hmem⟩ := List.mem_flatMap.1 h
  rcases assembleStmt_access hmem with ⟨r, v, rfl⟩ | ⟨r, rfl⟩
  · exact wrEvent_wf r v
  · exact rdEvent_wf r

theorem oneOperand_iff (i : Instr) : i.oneOperand = true ↔
    i ∈ [.prngSeed, .keyChecksum, .subOpen, .ciphInit, .ciphDec, .ciphEnc, .rdOpen, .rdPut, .wrPush] := by
  cases i <;> decide

/-- `WR_END n` splits its 64-bit size into the low and the high word (R46, R54). -/
theorem assemble_wrEndSize {n : Nat} (hn : n < 2 ^ 64) :
    assemble [.wrEndSize n] =
      [wrEvent .arg0 (BitVec.ofNat 32 (n % 2 ^ 32)), wrEvent .arg1 (BitVec.ofNat 32 (n / 2 ^ 32)),
        cmdEvent .wrEnd] := by
  have htoNat : (BitVec.ofNat 64 n).toNat = n := Nat.mod_eq_of_lt hn
  simp [assemble, assembleStmt, lo32_eq_ofNat, hi32_eq_ofNat, htoNat]

/-- Settles O58: a program is register accesses, which pass the check of R29; each form is its expansion. -/
theorem wellFormedProgramsAssembleToAccesses : Obligations.WellFormedProgramsAssembleToAccesses := by
  refine ⟨fun _ _ _ => assemble_wf, fun e s f hwf hstep => ?_, fun _ _ => rfl, fun _ => rfl, fun _ => rfl,
    oneOperand_iff, fun _ _ _ => rfl, fun _ => rfl, fun _ _ => rfl, fun _ => assemble_wrEndSize, fun _ => rfl⟩
  have hf : f ∈ commandFaults := handleEvent_fault hwf hstep
  revert hf
  cases f <;> decide

end Sys2Proof.Proofs

namespace Sys2Proof.Proofs

open Sys2Proof.Machine

/-! ### The seeding recurrence -/

/-- The first word is the seed, each later one the recurrence over the word before it (R57). -/
theorem seedWord_succ (seed : Word) (k : Nat) :
    seedWord seed (k + 1) =
      BitVec.ofNat 32 (k + 1) + 0x6C078965#32 * (seedWord seed k ^^^ (seedWord seed k >>> 30)) := rfl

theorem prngSeed_word_ofNat (seed : Word) {k : Nat} (hk : k < 16) :
    (prngSeed seed).word (BitVec.ofNat 4 k) = seedWord seed k := by
  rw [prngSeed_word, BitVec.toNat_ofNat, Nat.mod_eq_of_lt hk]

/-- `PRNG_SEED` is legal in every `SEQ` value, and its rule writes the PRNG alone (R60). -/
theorem exec_prngSeed (s : State) :
    exec .prngSeed s = .next { s.accepted with prng := prngSeed s.regs.arg0 } := by
  rw [exec_eq_command, command_of_legal _ rfl]
  rfl

/-- Settles O8: the words of `prngSeed` are those of `seedWord`, whose equations are the recurrence. -/
theorem prngSeedFollowsTheRecurrence : Obligations.PrngSeedFollowsTheRecurrence := by
  intro s
  refine ⟨prngSeed s.regs.arg0, exec_prngSeed s, rfl, ?_, ?_, prngSeed_idx _, prngSeed_valid _⟩
  · exact prngSeed_word_ofNat _ (k := 0) (by omega)
  · intro k h1 h15
    obtain ⟨k, rfl⟩ : ∃ m, k = m + 1 := ⟨k - 1, by omega⟩
    simp only [Nat.add_sub_cancel]
    rw [prngSeed_word_ofNat _ (by omega), prngSeed_word_ofNat _ (by omega), seedWord_succ]

/-! ### One draw -/

/-- `(j + n) mod 16` for the `IDX` value `j` is the 4-bit sum (R58). -/
theorem ofNat_toNat_add (j : BitVec 4) (n : Nat) : BitVec.ofNat 4 ((j.toNat + n) % 16) = j + BitVec.ofNat 4 n := by
  apply BitVec.eq_of_toNat_eq
  simp

/-- A draw writes no word but `W[j]` and `W[(j + 15) mod 16]` (R58). -/
theorem prngNext_word_of_ne {p : Prng} {k : Nat} (hk : k < 16) (hlow : k ≠ p.idx.toNat)
    (hnew : k ≠ (p.idx.toNat + 15) % 16) :
    (prngNext p).2.word (BitVec.ofNat 4 k) = p.word (BitVec.ofNat 4 k) := by
  have hnum {x : BitVec 4} (h : x = BitVec.ofNat 4 k) : k = x.toNat := by
    rw [h, BitVec.toNat_ofNat, Nat.mod_eq_of_lt hk]
  have hnew' : p.idx + 15#4 ≠ BitVec.ofNat 4 k := fun h => hnew (hnum h)
  have hlow' : p.idx ≠ BitVec.ofNat 4 k := fun h => hlow (hnum h)
  rw [prngNext_words, if_neg hnew', if_neg hlow']

/-! ### The commands that draw -/

/-- `UNSEEDED` records itself in bit 8 of `ERR_STICKY`, whatever `STATUS.ERR` held before the command (R99, R100). -/
theorem raise_unseeded (s : State) :
    raise .unseeded (s.setErr none) = s.errored .unseeded 0x00000100#32 := rfl

theorem exec_prngNext_unseeded {s : State} (hv : s.prng.valid = false) :
    exec .prngNext s = .next (s.errored .unseeded 0x00000100#32) := by
  rw [exec_eq_command, command_of_legal _ rfl, ← raise_unseeded]
  exact prngNextRule_unseeded (s := s.setErr none) hv

theorem exec_prngNext_seeded {s : State} (hv : s.prng.valid = true) :
    exec .prngNext s =
      .next { s.answered (prngNext s.prng).1 0x00000000#32 with prng := (prngNext s.prng).2 } := by
  rw [exec_eq_command, command_of_legal _ rfl]
  rcases prngNextRule_cases (s.setErr none) with ⟨hu, _⟩ | ⟨_, h⟩
  · exact absurd (hv.symm.trans hu) (by decide)
  · exact h

theorem exec_keyChecksum_unseeded {s : State} (hv : s.prng.valid = false) :
    exec .keyChecksum s = .next (s.errored .unseeded 0x00000100#32) := by
  rw [exec_eq_command, command_of_legal _ rfl, ← raise_unseeded]
  exact keyChecksumRule_unseeded (s := s.setErr none) hv

theorem exec_keyChecksum_seeded {s : State} (hv : s.prng.valid = true) :
    exec .keyChecksum s =
      .next { s.answered (xorOfDraws (s.regs.arg0.toNat % 31 + 5) s.prng) 0x00000000#32 with
        prng := prngAfter (s.regs.arg0.toNat % 31 + 5) s.prng } := by
  rw [exec_eq_command, command_of_legal _ rfl]
  rcases keyChecksumRule_cases (s.setErr none) with ⟨hu, _⟩ | ⟨_, h⟩
  · exact absurd (hv.symm.trans hu) (by decide)
  · rw [keyChecksum_spec] at h
    exact h

/-- Settles O9: the word and the PRNG are those of `prngNext`, whose laws are over 4-bit indices; `ofNat_toNat_add`
carries them to the sums modulo 16. -/
theorem prngNextMakesOneDraw : Obligations.PrngNextMakesOneDraw := by
  refine fun s => ⟨exec_prngNext_unseeded, fun hv => ?_⟩
  intro j W c b d a r
  have hidx (n : Nat) : BitVec.ofNat 4 ((j + n) % 16) = s.prng.idx + BitVec.ofNat 4 n := ofNat_toNat_add s.prng.idx n
  have hj : BitVec.ofNat 4 j = s.prng.idx := BitVec.eq_of_toNat_eq (by simp [j])
  have hW (n : Nat) : W (j + n) = s.prng.word (s.prng.idx + BitVec.ofNat 4 n) := congrArg s.prng.word (hidx n)
  have hWj : W j = s.prng.word s.prng.idx := by simpa using hW 0
  have hlow : b ^^^ c = drawLow s.prng := by simp only [b, c, hW, hWj, drawLow]
  have hr : r = (prngNext s.prng).1 := by
    simp only [prngNext_fst, r, d, hlow]
    simp only [a, b, c, hW, hWj]
  refine ⟨(prngNext s.prng).2, hr ▸ exec_prngNext_seeded hv, by rw [hr], ?_, ?_, ?_, (hidx 15).symm, hv⟩
  · rw [hj, prngNext_words, if_neg (idx_ne _).symm, if_pos rfl, hlow]
  · rw [hidx, prngNext_words, if_pos rfl, hr]
  · intro k hk hkj hk15
    rw [prngNext_word_of_ne hk hkj hk15]
    simp only [W, Nat.mod_eq_of_lt hk]

/-- Settles O10: the rule is evaluated in both cases, its rounds by `keyChecksum_spec`. -/
theorem keyChecksumXorsItsDraws : Obligations.KeyChecksumXorsItsDraws :=
  fun _ => ⟨exec_keyChecksum_unseeded, exec_keyChecksum_seeded⟩

/-! ### What a command does to the PRNG -/

/-- The second PRNG is the first one some draws later. -/
def DrawnFrom (p q : Prng) : Prop := ∃ n, q = prngAfter n p

theorem DrawnFrom.refl (p : Prng) : DrawnFrom p p := ⟨0, rfl⟩

theorem DrawnFrom.after (n : Nat) {p q : Prng} (h : DrawnFrom p q) : DrawnFrom p (prngAfter n q) := by
  obtain ⟨m, rfl⟩ := h
  exact ⟨m + n, (prngAfter_add m n p).symm⟩

/-- A byte of a stream draws for the keystream, and before that for the accumulator if it is unseeded (R70, R71). -/
theorem drawnFrom_afterByte (s : State) (plain : Byte) : DrawnFrom s.prng (s.afterByte plain).prng := by
  have hseed : DrawnFrom s.prng s.byteSeed.2 := by
    unfold State.byteSeed
    split
    · exact .refl _
    · exact (DrawnFrom.refl _).after 1
  exact hseed.after 1

theorem decryptByte_drawn {b out : Byte} {s : State} {q : Prng} {c : Cipher}
    (h : decryptByte b s.prng s.cipher = some (out, q, c)) : DrawnFrom s.prng q := by
  rw [decryptByte_spec, Option.ite_none_left_eq_some] at h
  obtain ⟨_, ⟨⟩⟩ := h
  exact drawnFrom_afterByte s _

theorem encryptByte_drawn {b out : Byte} {s : State} {q : Prng} {c : Cipher}
    (h : encryptByte b s.prng s.cipher = some (out, q, c)) : DrawnFrom s.prng q := by
  rw [encryptByte_spec, Option.ite_none_left_eq_some] at h
  obtain ⟨_, ⟨⟩⟩ := h
  exact drawnFrom_afterByte s _

theorem emitHeader_drawn (s : State) : DrawnFrom s.prng (emitHeader s).prng := by
  rcases emitHeader_cases s with ⟨_, h⟩ | ⟨_, n, hdr, bs, _, h⟩ <;> rw [h]
  · exact .refl _
  · exact ⟨n, rfl⟩

/-- Every rule but those of R57, R79, R90 and R98 keeps the PRNG or writes it by drawing. -/
theorem ruleOf_drawn (i : Instr) (hi : i ∉ [.prngSeed, .rdOpen, .wrOpen, .coreReset]) (s : State) :
    Ensures (fun t => DrawnFrom s.prng t.prng) (ruleOf i s) := by
  cases i with
  | prngSeed | rdOpen | wrOpen | coreReset => exact absurd (by decide) hi
  | nop | subOpen | ciphInit => exact ensures_next (.refl _)
  | prngNext =>
    rcases prngNextRule_cases s with ⟨_, h⟩ | ⟨_, h⟩ <;> rw [ruleOf, h]
    · exact ensures_next (.refl _)
    · exact ensures_next ⟨1, rfl⟩
  | keyChecksum =>
    rcases keyChecksumRule_cases s with ⟨_, h⟩ | ⟨_, h⟩ <;> rw [ruleOf, h]
    · exact ensures_next (.refl _)
    · rw [keyChecksum_spec]
      exact ensures_next ⟨_, rfl⟩
  | subRead =>
    rcases subReadRule_cases s with ⟨_, h⟩ | ⟨_, _, b, h⟩ <;> rw [ruleOf, h] <;> exact ensures_next (.refl _)
  | ciphDec =>
    rcases ciphDecRule_cases s with ⟨_, h⟩ | ⟨_, _, h⟩ | ⟨_, _, h⟩ <;> rw [ruleOf, h]
    · exact ensures_next (.refl _)
    · exact ensures_next (.refl _)
    · exact cipherResult_ensures fun _ _ _ hb => decryptByte_drawn hb
  | ciphEnc =>
    rcases ciphEncRule_cases s with ⟨_, h⟩ | ⟨_, _, h⟩ | ⟨_, _, h⟩ <;> rw [ruleOf, h]
    · exact ensures_next (.refl _)
    · exact ensures_next (.refl _)
    · exact cipherResult_ensures fun _ _ _ hb => encryptByte_drawn hb
  | rdHasnext =>
    rcases rdHasnextRule_cases s with ⟨_, h⟩ | ⟨_, _, h⟩ | ⟨_, _, h⟩ <;> rw [ruleOf, h] <;>
      exact ensures_next (.refl _)
  | rdEntry =>
    rcases rdEntryRule_cases s with ⟨_, h⟩ | ⟨_, h⟩ <;> rw [ruleOf, h]
    · exact ensures_next (.refl _)
    · exact ensures_next ⟨2, rfl⟩
  | rdPull =>
    rcases rdPullRule_cases s with ⟨_, h⟩ | ⟨_, _, b, h⟩ <;> rw [ruleOf, h]
    · exact ensures_next (.refl _)
    · exact cipherResult_ensures fun _ _ _ hb => decryptByte_drawn hb
  | rdPut =>
    rcases rdPutRule_cases s with ⟨_, h⟩ | ⟨_, _, h⟩ | ⟨_, _, _, h⟩ | ⟨_, _, _, h⟩ <;> rw [ruleOf, h]
    · exact ensures_next (.refl _)
    · exact ensures_next (.refl _)
    · exact ensures_next (.refl _)
    · exact ensures_fault _
  | rdFinish =>
    rcases rdFinishRule_cases s with ⟨_, _, h⟩ | ⟨_, h⟩ <;> rw [ruleOf, h] <;> exact ensures_next (.refl _)
  | wrBegin =>
    rw [ruleOf, wrBeginRule_eq]
    exact ensures_next ((emitHeader_drawn s).after 2)
  | wrPush =>
    rcases wrPushRule_cases s with ⟨_, _, _, henc, _, _, h⟩ | ⟨_, f, h⟩ <;> rw [ruleOf, h]
    · exact ensures_next (encryptByte_drawn henc)
    · exact ensures_fault f
  | wrEnd =>
    rcases wrEndRule_cases s with ⟨_, h⟩ | ⟨_, h⟩ <;> rw [ruleOf, h] <;> exact ensures_next (.refl _)

/-- Settles O42: a refusal keeps the PRNG, and the rules draw or keep it. -/
theorem otherCommandsChangeThePrngByDrawing : Obligations.OtherCommandsChangeThePrngByDrawing :=
  fun i s t h hi => exec_ensures (P := fun t => DrawnFrom s.prng t.prng) i s (.refl _)
    (fun _ => ruleOf_drawn i hi (s.setErr none)) t h

end Sys2Proof.Proofs

namespace Sys2Proof.Proofs

open Sys2Proof.Machine

/-! ### Runs of host programs, one event at a time -/

/-- No event changes what the host has yet to do. -/
theorem handleEvent_events (e : HostEvent) (s : State) : Ensures (fun t => t.events = s.events) (handleEvent e s) := by
  intro t h
  cases e with
  | memRead addr nbytes =>
    obtain ⟨v, n, rfl⟩ := memRead_next h
    rfl
  | memWrite addr nbytes v =>
    rcases memWrite_next h with ⟨_, hrun⟩ | ⟨_, a0, a1, c, _, rfl⟩
    · exact (runWord_frame v s t hrun).events
    · rfl
  | powerOnReset =>
    cases h
    rfl

/-- The events a state holds are replaced by those of the run. -/
theorem runEvents_setEvents (es es' : List HostEvent) (s : State) :
    runEvents es (s.setEvents es') = runEvents es s := rfl

/-- A run whose first event takes effect goes on from the state that event leaves. -/
theorem runEvents_cons {e : HostEvent} {es : List HostEvent} {s t : State}
    (h : handleEvent e (s.setEvents es) = .next t) : runEvents (e :: es) s = runEvents es t := by
  have hevents : t.setEvents es = t := by
    have hkept : t.events = es := handleEvent_events e (s.setEvents es) t h
    subst hkept
    rfl
  have hstep : step (s.setEvents (e :: es)) = .next t := h
  simp only [runEvents, List.length_cons, runSteps, hstep, hevents]

/-- A write to a register's own offset reaches that register. -/
theorem handleEvent_wrEvent (r : Reg) (v : Word) (s : State) : handleEvent (wrEvent r v) s = regWrite r v s := by
  rw [wrEvent, handleEvent, memWrite, accessFault_regOffset, regAt_regOffset]

theorem handleEvent_cmdEvent (i : Instr) (s : State) : handleEvent (cmdEvent i) s = exec i s :=
  (handleEvent_wrEvent .cmd (encode i) s).trans (runWord_of_decode (decode_encode i) s)

/-- A write of `ARG0` in a run; the events of the state it starts from are the run's. -/
theorem runEvents_arg0 (v : Word) (es : List HostEvent) (s : State) :
    runEvents (wrEvent .arg0 v :: es) s = runEvents es (s.setRegs { s.regs with arg0 := v }) := by
  have hwrite : handleEvent (wrEvent .arg0 v) (s.setEvents es) =
      .next ((s.setRegs { s.regs with arg0 := v }).setEvents es) := handleEvent_wrEvent .arg0 v _
  exact (runEvents_cons hwrite).trans (runEvents_setEvents es es _)

theorem runProgram_nil (s : State) : runProgram [] s = .next (s.setEvents []) := rfl

/-- A program whose first command completes goes on from the state that command leaves. -/
theorem runProgram_cmd {i : Instr} {prog : List Stmt} {s t : State}
    (h : exec i (s.setEvents (assemble prog)) = .next t) : runProgram (.cmd i :: prog) s = runProgram prog t :=
  runEvents_cons ((handleEvent_cmdEvent i _).trans h)

/-- The same for a command with its operand in `ARG0` (R54). -/
theorem runProgram_cmdArg {i : Instr} {v : Word} {prog : List Stmt} {s t : State}
    (h : exec i ((s.setRegs { s.regs with arg0 := v }).setEvents (assemble prog)) = .next t) :
    runProgram (.cmdArg i v.toNat :: prog) s = runProgram prog t := by
  have hassemble : assemble (.cmdArg i v.toNat :: prog) = wrEvent .arg0 v :: cmdEvent i :: assemble prog := by
    simp [assemble, assembleStmt]
  rw [runProgram, hassemble, runEvents_arg0]
  exact runEvents_cons ((handleEvent_cmdEvent i _).trans h)

/-- The induction over a repeated command: what each one carries from `k` commands to `k + 1`, whatever events wait,
holds with `m` more after `m` of them. -/
theorem runProgram_replicate {i : Instr} {P : Nat → State → Prop}
    (hevents : ∀ {k s} es, P k s → P k (s.setEvents es))
    (hexec : ∀ {k s}, P k s → ∃ t, exec i s = .next t ∧ P (k + 1) t) (m : Nat) {k : Nat} {s : State} (h : P k s) :
    ∃ t, runProgram (List.replicate m (.cmd i)) s = .next t ∧ P (k + m) t := by
  induction m generalizing k s with
  | zero => exact ⟨_, runProgram_nil s, hevents [] h⟩
  | succ m ih =>
    obtain ⟨t, hrun, ht⟩ := hexec (hevents (assemble (List.replicate m (.cmd i))) h)
    obtain ⟨u, hrest, hu⟩ := ih ht
    refine ⟨u, ?_, ?_⟩
    · rw [List.replicate_succ, runProgram_cmd hrun, hrest]
    · rwa [← Nat.add_right_comm, Nat.add_assoc] at hu

/-! ### The sub-range commands -/

theorem exec_subOpen (s : State) :
    exec .subOpen s = .next { s.accepted with sub := { n := s.regs.arg0, cnt := 0x00000000#32 } } := by
  rw [exec_eq_command, command_of_legal _ rfl]
  rfl

/-- Settles O11: the command is legal in every `SEQ`, and its rule is `SubOpen` of `ARG0`. -/
theorem subOpenSetsTheBudget : Obligations.SubOpenSetsTheBudget := exec_subOpen

theorem exec_subRead (s : State) : exec .subRead s = subReadRule (s.setErr none) := by
  rw [exec_eq_command, command_of_legal _ rfl]
  rfl

/-- At the end of the budget or of `IN` (R65). -/
theorem exec_subRead_eod {s : State} (hend : s.sub.cnt = s.sub.n ∨ s.ports.input.length ≤ s.ports.inPos) :
    exec .subRead s = .next (s.answered 0x00000000#32 0x00000001#32) := by
  rcases subReadRule_cases (s.setErr none) with ⟨_, h⟩ | ⟨hne, hlt, _⟩
  · exact (exec_subRead s).trans h
  · exact absurd hend (not_or.2 ⟨hne, Nat.not_le.2 hlt⟩)

/-- With budget left and a byte at the read position (R65). -/
theorem exec_subRead_byte {s : State} {b : Byte} (hne : s.sub.cnt ≠ s.sub.n)
    (hb : s.ports.input[s.ports.inPos]? = some b) :
    exec .subRead s = .next { s.answered (b.setWidth 32) 0x00000000#32 with
      sub := { s.sub with cnt := s.sub.cnt + 1 }
      ports := { s.ports with inPos := s.ports.inPos + 1 } } := by
  have hlt : s.ports.inPos < s.ports.input.length := (List.getElem?_eq_some_iff.1 hb).1
  rcases subRead_cases s.sub s.ports with ⟨hend, _⟩ | ⟨_, b', hb', hread⟩
  · exact absurd hend (not_or.2 ⟨hne, Nat.not_le.2 hlt⟩)
  · obtain rfl : b = b' := Option.some.inj (hb.symm.trans hb')
    rw [exec_subRead, subReadRule, State.setErr_sub, State.setErr_ports, hread]
    rfl

/-- Settles O12: the two clauses are the two outcomes of `SubRead`. -/
theorem subReadReturnsNextByteOrEod : Obligations.SubReadReturnsNextByteOrEod :=
  fun _ => ⟨exec_subRead_eod, fun _ => exec_subRead_byte⟩

/-! ### How far reads through the sub-range get -/

/-- The bytes that can be read through a sub-range just opened: its budget, or what is left of `IN` (R65). -/
def subBytes (u : SubRange) (p : Ports) : Nat := min u.n.toNat (p.input.length - p.inPos)

theorem subBytes_lt (u : SubRange) (p : Ports) : subBytes u p < 2 ^ 32 :=
  Nat.lt_of_le_of_lt (Nat.min_le_left _ _) u.n.isLt

/-- The sub-range and the ports after `k` reads through a sub-range that stood at `u₀` and `p₀` when it was opened: the
count and `IN_POS` have moved by the same number of bytes, and by no more than there are to read (R68). -/
structure SubConsumed (u₀ : SubRange) (p₀ : Ports) (k : Nat) (u : SubRange) (p : Ports) : Prop where
  n : u.n = u₀.n
  input : p.input = p₀.input
  cnt : u.cnt.toNat = min k (subBytes u₀ p₀)
  inPos : p.inPos = p₀.inPos + u.cnt.toNat

theorem SubConsumed.start {u : SubRange} (hcnt : u.cnt = 0) (p : Ports) : SubConsumed u p 0 u p :=
  ⟨rfl, rfl, by simp [hcnt], by simp [hcnt]⟩

/-- A read that ends in `EOD` finds every byte there was consumed. -/
theorem SubConsumed.eod {u₀ u : SubRange} {p₀ p : Ports} {k : Nat} (h : SubConsumed u₀ p₀ k u p)
    (hend : u.cnt = u.n ∨ p.input.length ≤ p.inPos) :
    subBytes u₀ p₀ ≤ k ∧ SubConsumed u₀ p₀ (k + 1) u p := by
  obtain ⟨hn, hinput, hcnt, hpos⟩ := h
  have hall : subBytes u₀ p₀ ≤ k := by
    rw [hn, hinput, ← BitVec.toNat_inj] at hend
    unfold subBytes at hcnt ⊢
    omega
  exact ⟨hall, hn, hinput, by omega, hpos⟩

/-- A read that gives a byte had one left, and counts it without overflow. -/
theorem SubConsumed.byte {u₀ u : SubRange} {p₀ p : Ports} {k : Nat} (h : SubConsumed u₀ p₀ k u p)
    (hne : u.cnt ≠ u.n) (hlt : p.inPos < p.input.length) :
    k < subBytes u₀ p₀ ∧
      SubConsumed u₀ p₀ (k + 1) { u with cnt := u.cnt + 1 } { p with inPos := p.inPos + 1 } := by
  obtain ⟨hn, hinput, hcnt, hpos⟩ := h
  have hleft : k < subBytes u₀ p₀ := by
    rw [hn, Ne, ← BitVec.toNat_inj] at hne
    rw [hinput] at hlt
    unfold subBytes at hcnt ⊢
    omega
  have hcount : (u.cnt + 1).toNat = u.cnt.toNat + 1 :=
    BitVec.toNat_add_of_lt (by have := subBytes_lt u₀ p₀; simp; omega)
  exact ⟨hleft, hn, hinput, by simp only [hcount]; omega, by simp only [hcount]; omega⟩

/-- One `SUB_READ` more. -/
theorem SubConsumed.after_subRead {u₀ : SubRange} {p₀ : Ports} {k : Nat} {s : State}
    (h : SubConsumed u₀ p₀ k s.sub s.ports) :
    ∃ t, exec .subRead s = .next t ∧ SubConsumed u₀ p₀ (k + 1) t.sub t.ports := by
  rw [exec_subRead]
  rcases subReadRule_cases (s.setErr none) with ⟨hend, hrun⟩ | ⟨hne, hlt, b, hrun⟩
  · exact ⟨_, hrun, (h.eod hend).2⟩
  · exact ⟨_, hrun, (h.byte hne hlt).2⟩

theorem runProgram_subReads {s : State} (hcnt : s.sub.cnt = 0) (k : Nat) :
    ∃ t, runProgram (List.replicate k (.cmd .subRead)) s = .next t ∧ SubConsumed s.sub s.ports k t.sub t.ports := by
  obtain ⟨t, hrun, ht⟩ := runProgram_replicate
    (P := fun k t => SubConsumed s.sub s.ports k t.sub t.ports) (fun _ h => h)
    SubConsumed.after_subRead k (.start hcnt s.ports)
  exact ⟨t, hrun, Nat.zero_add k ▸ ht⟩

/-- The state `SUB_OPEN` with this budget in `ARG0` leaves (R66). -/
def subOpened (budget : Word) (s : State) : State :=
  (s.setRegs { s.regs with arg0 := budget, err := none }).setSub (subOpen budget)

theorem runProgram_subOpen (budget : Word) (prog : List Stmt) (s : State) :
    runProgram (.cmdArg .subOpen budget.toNat :: prog) s = runProgram prog (subOpened budget s) :=
  (runProgram_cmdArg (exec_subOpen _)).trans (runEvents_setEvents _ (assemble prog) (subOpened budget s))

/-- Settles O43: `SUB_OPEN` starts the count at 0, and each `SUB_READ` carries `SubConsumed` one read further. -/
theorem subRangeNeverReadsPastItsBudget : Obligations.SubRangeNeverReadsPastItsBudget := by
  intro s budget k
  obtain ⟨t, hrun, hsub⟩ := runProgram_subReads (s := subOpened budget s) rfl k
  exact ⟨t, (runProgram_subOpen budget _ s).trans hrun, hsub.n, hsub.cnt, hsub.inPos⟩

/-! ### The draws of a cipher stream -/

/-- The draws a cipher stream of `n` bytes makes: one for the accumulator and one for each byte, none if it is empty
(R70, R71, R85). -/
def streamDraws (n : Nat) : Nat := if n = 0 then 0 else n + 1

/-- The PRNG and the cipher `n` bytes into a stream that started fresh with the PRNG `p`. -/
structure StreamAt (p : Prng) (n : Nat) (q : Prng) (c : Cipher) : Prop where
  prng : q = prngAfter (streamDraws n) p
  pos : c.pos.toNat = n
  seeded : c.ckSeeded = decide (n ≠ 0)

theorem StreamAt.start {c : Cipher} (hseeded : c.ckSeeded = false) (hpos : c.pos = 0) (p : Prng) :
    StreamAt p 0 p c :=
  ⟨rfl, by simp [hpos], by simp [hseeded]⟩

/-- Before `POS` = 2^64 - 1, a byte makes its draws, the seeding draw too if it is the first, and moves `POS` on. -/
theorem StreamAt.afterByte {p : Prng} {n : Nat} {s : State} (h : StreamAt p n s.prng s.cipher) (hn : n < 2 ^ 64 - 1)
    (plain : Byte) : StreamAt p (n + 1) (s.afterByte plain).prng (s.afterByte plain).cipher := by
  obtain ⟨hprng, hpos, hseeded⟩ := h
  refine ⟨?_, ?_, by simp [State.afterByte]⟩
  · have hlast (m : Nat) : (prngNext (prngAfter m p)).2 = prngAfter (m + 1) p := (prngAfter_add m 1 p).symm
    cases n with
    | zero => simp [State.afterByte, State.byteSeed, hseeded, hprng, streamDraws]
    | succ n =>
      simp only [State.afterByte, State.byteSeed, hseeded, hprng]
      exact hlast _
  · rw [← hpos]
    exact BitVec.toNat_add_of_lt (by simp; omega)

/-! ### Pulling a stream through the sub-range -/

/-- The state `RD_PULL` leaves when the byte it took has this plain side (R82). -/
def bytePulled (plain : Byte) (s : State) : State :=
  resByte plain (((byteTaken s).setPrng (s.afterByte plain).prng).setCipher (s.afterByte plain).cipher)

/-- In an entry and before the end of `POS`, `RD_PULL` answers `EOD` or a plain byte. -/
theorem exec_rdPull_cases {s : State} (hq : s.seq = .rInEntry) (hpos : s.cipher.pos ≠ BitVec.allOnes 64) :
    ((s.sub.cnt = s.sub.n ∨ s.ports.input.length ≤ s.ports.inPos) ∧
      exec .rdPull s = .next (resEod (s.setErr none))) ∨
    (s.sub.cnt ≠ s.sub.n ∧ s.ports.inPos < s.ports.input.length ∧ ∃ plain,
      exec .rdPull s = .next (bytePulled plain (s.setErr none))) := by
  have hlegal : legal .rdPull s.seq = true := by simp [legal, hq]
  rw [exec_eq_command, command_of_legal _ hlegal, ruleOf]
  rcases rdPullRule_cases (s.setErr none) with ⟨hend, h⟩ | ⟨hne, hlt, b, h⟩
  · exact .inl ⟨hend, h⟩
  · refine .inr ⟨hne, hlt, b ^^^ (s.setErr none).keyByte, ?_⟩
    have hpos' : (s.setErr none).cipher.pos ≠ BitVec.allOnes 64 := hpos
    rw [h, decryptByte_spec, if_neg hpos']
    rfl

/-- The state after `k` `RD_PULL` commands in the entry open in `s₀`, whose sub-range and cipher stream are fresh. -/
structure Pulled (s₀ : State) (k : Nat) (s : State) : Prop where
  sub : SubConsumed s₀.sub s₀.ports k s.sub s.ports
  stream : StreamAt s₀.prng (min k (subBytes s₀.sub s₀.ports)) s.prng s.cipher
  seq : s.seq = .rInEntry

/-- One `RD_PULL` more. The 32-bit budget ends the stream long before `POS` does. -/
theorem Pulled.after_rdPull {s₀ s : State} {k : Nat} (h : Pulled s₀ k s) :
    ∃ t, exec .rdPull s = .next t ∧ Pulled s₀ (k + 1) t := by
  obtain ⟨hsub, hstream, hq⟩ := h
  have hlast := subBytes_lt s₀.sub s₀.ports
  have hpos : s.cipher.pos ≠ BitVec.allOnes 64 := by
    rw [Ne, pos_eq_allOnes, hstream.pos]
    omega
  rcases exec_rdPull_cases hq hpos with ⟨hend, hrun⟩ | ⟨hne, hlt, plain, hrun⟩
  · obtain ⟨hall, hsub'⟩ := hsub.eod hend
    have hmin : min (k + 1) (subBytes s₀.sub s₀.ports) = min k (subBytes s₀.sub s₀.ports) := by omega
    exact ⟨_, hrun, hsub', hmin ▸ hstream, hq⟩
  · obtain ⟨hleft, hsub'⟩ := hsub.byte hne hlt
    have hmin : min (k + 1) (subBytes s₀.sub s₀.ports) = min k (subBytes s₀.sub s₀.ports) + 1 := by omega
    exact ⟨_, hrun, hsub', hmin ▸ hstream.afterByte (by omega) plain, hq⟩

theorem Pulled.start {s : State} (hq : s.seq = .rInEntry) (hcnt : s.sub.cnt = 0)
    (hseeded : s.cipher.ckSeeded = false) (hpos : s.cipher.pos = 0) : Pulled s 0 s :=
  ⟨.start hcnt s.ports, by simpa using StreamAt.start hseeded hpos s.prng, hq⟩

/-- Settles O44: each `RD_PULL` carries `Pulled` one command further, which counts the bytes and the draws. -/
theorem pullingDrawsOncePerByteWithinTheBudget : Obligations.PullingDrawsOncePerByteWithinTheBudget := by
  intro s k hq hcnt hseeded hpos n
  obtain ⟨t, hrun, ht⟩ := runProgram_replicate (P := Pulled s) (fun _ h => ⟨h.sub, h.stream, h.seq⟩)
    Pulled.after_rdPull k (.start hq hcnt hseeded hpos)
  rw [Nat.zero_add] at ht
  obtain ⟨hsub, hstream, hq'⟩ := ht
  have hcount : t.sub.cnt.toNat = n := hsub.cnt
  exact ⟨t, hrun, hstream.prng, hcount, hcount ▸ hsub.inPos, hstream.pos, hq'⟩

end Sys2Proof.Proofs

namespace Sys2Proof.Proofs

open Sys2Proof.Machine

/-! ### The cipher commands -/

/-- `CIPH_INIT` is legal in every `SEQ` value, and its rule writes the cipher alone (R69, R75). -/
theorem exec_ciphInit (s : State) : exec .ciphInit s = .next { s.accepted with cipher := cipherInit (argDir s) } := by
  rw [exec_eq_command, command_of_legal _ rfl]
  rfl

/-- The direction operand is bit 0 of `ARG0` (R46, R75). -/
theorem argDir_eq (s : State) : argDir s = if s.regs.arg0.getLsbD 0 then 1#1 else 0#1 := by
  rw [argDir, ← BitVec.setWidth_eq_extractLsb' (by decide), BitVec.setWidth_one]
  cases s.regs.arg0.getLsbD 0 <;> rfl

/-- Settles O13: the rule is `CipherInit` of the direction operand. -/
theorem ciphInitStartsAStream : Obligations.CiphInitStartsAStream := by
  intro s
  rw [exec_ciphInit, cipherInit, argDir_eq]
  rfl

theorem argByte_eq (s : State) : argByte s = s.regs.arg0.setWidth 8 := lowByte_eq _

/-- The checks of `CIPH_DEC` in their order, with the states they end in (R76). -/
theorem exec_ciphDec (s : State) : exec .ciphDec s =
    if s.cipher.dir ≠ 0#1 then .next (s.errored .unsupportedOperation 0x00000020#32)
    else if s.prng.valid = false then .next (s.errored .unseeded 0x00000100#32)
    else cipherResult (decryptByte (argByte s) s.prng s.cipher) (s.setErr none) := by
  rw [exec_eq_command, command_of_legal _ rfl]
  rfl

/-- The checks of `CIPH_ENC` in their order, with the states they end in (R77). -/
theorem exec_ciphEnc (s : State) : exec .ciphEnc s =
    if s.cipher.dir ≠ 1#1 then .next (s.errored .unsupportedOperation 0x00000020#32)
    else if s.prng.valid = false then .next (s.errored .unseeded 0x00000100#32)
    else cipherResult (encryptByte (argByte s) s.prng s.cipher) (s.setErr none) := by
  rw [exec_eq_command, command_of_legal _ rfl]
  rfl

section
variable {s : State} (hv : s.prng.valid = true)
include hv

theorem exec_ciphDec_seeded (hd : s.cipher.dir = 0#1) :
    exec .ciphDec s = cipherResult (decryptByte (argByte s) s.prng s.cipher) (s.setErr none) := by
  rw [exec_ciphDec, if_neg (not_not.2 hd), if_neg (by simp [hv])]

theorem exec_ciphEnc_seeded (hd : s.cipher.dir = 1#1) :
    exec .ciphEnc s = cipherResult (encryptByte (argByte s) s.prng s.cipher) (s.setErr none) := by
  rw [exec_ciphEnc, if_neg (not_not.2 hd), if_neg (by simp [hv])]

/-- The byte of `CIPH_DEC` is the plain side of what `ARG0` holds, and is answered (R73). -/
theorem exec_ciphDec_byte (hd : s.cipher.dir = 0#1) (hpos : s.cipher.pos.toNat < 2 ^ 64 - 1) :
    let plain := s.regs.arg0.setWidth 8 ^^^ s.keyByte
    exec .ciphDec s = .next ((s.answered (plain.setWidth 32) 0x00000000#32).afterByte plain) := by
  have hbefore : s.cipher.pos ≠ BitVec.allOnes 64 := (pos_eq_allOnes _).not.2 (Nat.ne_of_lt hpos)
  rw [exec_ciphDec_seeded hv hd, decryptByte_spec, if_neg hbefore, argByte_eq]
  rfl

/-- The byte of `CIPH_ENC` is what `ARG0` holds; its cipher side is answered (R74). -/
theorem exec_ciphEnc_byte (hd : s.cipher.dir = 1#1) (hpos : s.cipher.pos.toNat < 2 ^ 64 - 1) :
    let plain := s.regs.arg0.setWidth 8
    exec .ciphEnc s =
      .next ((s.answered ((plain ^^^ s.keyByte).setWidth 32) 0x00000000#32).afterByte plain) := by
  have hbefore : s.cipher.pos ≠ BitVec.allOnes 64 := (pos_eq_allOnes _).not.2 (Nat.ne_of_lt hpos)
  rw [exec_ciphEnc_seeded hv hd, encryptByte_spec, if_neg hbefore, argByte_eq]
  rfl

end

/-- Settles O14: the two refusals in the order of R76, then `DecryptByte`, which has no step at the end of `POS`. -/
theorem ciphDecDecryptsOneByte : Obligations.CiphDecDecryptsOneByte := by
  refine fun s => ⟨fun hd => ?_, fun hd hv => ?_, fun hd hv hpos => ?_, fun hd hv => exec_ciphDec_byte hv hd⟩
  · rw [exec_ciphDec, if_pos hd]
  · rw [exec_ciphDec, if_neg (not_not.2 hd), if_pos hv]
  · rw [exec_ciphDec_seeded hv hd, (decryptByte_eq_none _ s).2 ((pos_eq_allOnes _).2 hpos), cipherResult]

/-- Settles O15: the two refusals in the order of R77, then `EncryptByte`, which has no step at the end of `POS`. -/
theorem ciphEncEncryptsOneByte : Obligations.CiphEncEncryptsOneByte := by
  refine fun s => ⟨fun hd => ?_, fun hd hv => ?_, fun hd hv hpos => ?_, fun hd hv => exec_ciphEnc_byte hv hd⟩
  · rw [exec_ciphEnc, if_pos hd]
  · rw [exec_ciphEnc, if_neg (not_not.2 hd), if_pos hv]
  · rw [exec_ciphEnc_seeded hv hd, (encryptByte_eq_none _ s).2 ((pos_eq_allOnes _).2 hpos), cipherResult]

/-! ### One byte command for both directions

The two directions answer alike and differ in the plain side alone, so the streams of R78 are followed once, with the
direction as a parameter. -/

/-- The command that moves one byte through a stream of this direction. -/
def byteCommand (d : BitVec 1) : Instr := if d = 0#1 then .ciphDec else .ciphEnc

/-- The plain side of a byte whose keystream byte is `k`: what a decrypt stream answers, what an encrypt stream is
given (R73, R74). -/
def plainSide (d : BitVec 1) (b k : Byte) : Byte := if d = 0#1 then b ^^^ k else b

theorem exec_byteCommand {s : State} (hv : s.prng.valid = true) (hpos : s.cipher.pos.toNat < 2 ^ 64 - 1) :
    exec (byteCommand s.cipher.dir) s =
      .next ((s.answered ((s.regs.arg0.setWidth 8 ^^^ s.keyByte).setWidth 32) 0x00000000#32).afterByte
        (plainSide s.cipher.dir (s.regs.arg0.setWidth 8) s.keyByte)) := by
  rcases BitVec.eq_zero_or_eq_one s.cipher.dir with hd | hd
  · rw [hd]
    exact exec_ciphDec_byte hv hd hpos
  · rw [hd]
    exact exec_ciphEnc_byte hv hd hpos

/-! ### Reads and byte operands in a run -/

theorem regValue_setEvents (r : Reg) (s : State) (es : List HostEvent) :
    regValue r (s.setEvents es) = regValue r s := by
  cases r <;> rfl

/-- A read of a register but `PRNG_W<k>` returns its value and changes nothing else (R28). -/
theorem handleEvent_rdEvent {r : Reg} (h : r ∈ plainRegs) (s : State) :
    handleEvent (rdEvent r) s = .next (hostReturn (regValue r s) s) := by
  simp only [rdEvent, handleEvent, memRead, accessFault_regOffset, regAt_regOffset, freeWordsRead_of_plain h]
  rfl

theorem runProgram_rd {r : Reg} (h : r ∈ plainRegs) (prog : List Stmt) (s : State) :
    runProgram (.rd r :: prog) s = runProgram prog (hostReturn (regValue r s) s) := by
  have hread : handleEvent (rdEvent r) (s.setEvents (assemble prog)) =
      .next ((hostReturn (regValue r s) s).setEvents (assemble prog)) := by
    rw [handleEvent_rdEvent h, regValue_setEvents]
    rfl
  exact (runEvents_cons hread).trans (runEvents_setEvents _ _ _)

/-- A one-operand command with an operand narrower than `ARG0` (R46, R54). -/
theorem runProgram_cmdArg_narrow {i : Instr} {n : Nat} (hn : n ≤ 32) {v : BitVec n} {prog : List Stmt} {s t : State}
    (h : exec i ((s.setRegs { s.regs with arg0 := v.setWidth 32 }).setEvents (assemble prog)) = .next t) :
    runProgram (.cmdArg i v.toNat :: prog) s = runProgram prog t := by
  rw [← BitVec.toNat_setWidth_of_le hn (b := v)]
  exact runProgram_cmdArg h

/-- What a command finds of such an operand in `ARG0`. -/
theorem setWidth_setWidth_of_narrow {n : Nat} (hn : n ≤ 32) (v : BitVec n) : (v.setWidth 32).setWidth n = v :=
  (BitVec.setWidth_setWidth_of_le v hn).trans (BitVec.setWidth_eq v)

/-! ### A stream as a function of the PRNG it starts from -/

/-- The keystream byte of position `n` in a stream that starts from the PRNG `p`: its draw follows the seeding draw and
those of the `n` bytes before it (R70, R71). -/
def streamKey (p : Prng) (n : Nat) : Byte := ((prngNext (prngAfter (n + 1) p)).1 >>> (n % 16)).setWidth 8

/-- What a stream from `p` answers to these bytes, in either direction: each byte under the keystream byte of its
position (R73, R74). -/
def keyed (p : Prng) (bs : List Byte) : List Byte := bs.mapIdx fun n b => b ^^^ streamKey p n

/-- The plain sides of a stream's bytes. -/
def plainSides (d : BitVec 1) (p : Prng) (bs : List Byte) : List Byte :=
  bs.mapIdx fun n b => plainSide d b (streamKey p n)

@[simp] theorem length_keyed (p : Prng) (bs : List Byte) : (keyed p bs).length = bs.length := List.length_mapIdx

theorem keyed_concat (p : Prng) (bs : List Byte) (b : Byte) :
    keyed p (bs ++ [b]) = keyed p bs ++ [b ^^^ streamKey p bs.length] := List.mapIdx_concat

theorem keyed_set (p : Prng) (bs : List Byte) (k : Nat) (c : Byte) :
    keyed p (bs.set k c) = (keyed p bs).set k (c ^^^ streamKey p k) := List.mapIdx_set

/-- The keystream is its own inverse: it depends on the position only (R78 items 1 and 3). -/
theorem keyed_keyed (p : Prng) (bs : List Byte) : keyed p (keyed p bs) = bs := by
  refine List.ext_getElem (by simp) fun n _ _ => ?_
  simp [keyed]

theorem plainSides_decrypt (p : Prng) (bs : List Byte) : plainSides 0#1 p bs = keyed p bs := rfl

theorem plainSides_encrypt (p : Prng) (bs : List Byte) : plainSides 1#1 p bs = bs :=
  List.ext_getElem (by simp [plainSides]) fun n _ _ => by simp [plainSides, plainSide]

theorem plainSides_concat (d : BitVec 1) (p : Prng) (bs : List Byte) (b : Byte) :
    plainSides d p (bs ++ [b]) = plainSides d p bs ++ [plainSide d b (streamKey p bs.length)] := List.mapIdx_concat

/-! ### The checksum of a stream -/

/-- `CkUpdate` (R72) of the plain byte at position `n`. -/
def foldByte (n : Nat) (ck : Word) (b : Byte) : Word := b.setWidth 32 ^^^ ck.rotateRight (n % 7 + 1)

/-- `CkUpdate` of each byte in turn, the first at position `n`. -/
def foldBytes : Nat → Word → List Byte → Word
  | _, ck, [] => ck
  | n, ck, b :: bs => foldBytes (n + 1) (foldByte n ck b) bs

/-- The accumulator after a stream from `p` with these plain bytes: the seeding draw with each byte folded in, and
`CK_PREINIT` for none (R69, R70, R72). -/
def streamChecksum (p : Prng) (plain : List Byte) : Word :=
  if plain = [] then Config.ckPreinit else foldBytes 0 (prngNext p).1 plain

theorem foldBytes_concat (n : Nat) (ck : Word) (bs : List Byte) (b : Byte) :
    foldBytes n ck (bs ++ [b]) = foldByte (n + bs.length) (foldBytes n ck bs) b := by
  induction bs generalizing n ck with
  | nil => rfl
  | cons a bs ih =>
    rw [List.cons_append, foldBytes, ih, foldBytes, List.length_cons, Nat.add_assoc, Nat.add_comm 1]

/-- A rotation loses no bit, by the positions its bits come from (R6). -/
theorem rotr32_injective {n : Nat} (hn : n < 32) : Function.Injective fun x => rotr32 x n := by
  intro x y h
  refine BitVec.eq_of_getLsbD_eq fun i hi => ?_
  have hsrc : ((i + (32 - n)) % 32 + n) % 32 = i := by omega
  have hbit := congrArg (fun v => v.getLsbD ((i + (32 - n)) % 32)) h
  have hj : (i + (32 - n)) % 32 < 32 := Nat.mod_lt _ (by decide)
  simpa only [getLsbD_rotr32 _ _ _ hn hj, hsrc] using hbit

theorem foldByte_ck_injective (n : Nat) (b : Byte) : Function.Injective fun ck => foldByte n ck b := by
  intro x y h
  have hn : n % 7 + 1 < 32 := by omega
  refine rotr32_injective hn ?_
  simpa only [rotr32_eq_rotateRight _ _ hn] using (BitVec.xor_right_inj _).1 h

theorem foldByte_byte_injective (n : Nat) (ck : Word) : Function.Injective (foldByte n ck) := by
  intro b c h
  have hz := congrArg BitVec.toNat ((BitVec.xor_left_inj _).1 h)
  rw [BitVec.toNat_setWidth_of_le (by decide), BitVec.toNat_setWidth_of_le (by decide)] at hz
  exact BitVec.eq_of_toNat_eq hz

/-- Equal bytes keep two different accumulators different. -/
theorem foldBytes_ck_injective (n : Nat) (bs : List Byte) : Function.Injective fun ck => foldBytes n ck bs := by
  induction bs generalizing n with
  | nil => exact fun _ _ h => h
  | cons b bs ih => exact (ih (n + 1)).comp (foldByte_ck_injective n b)

/-- The fold tells two byte strings apart that differ in one position: the byte makes the accumulators differ, and the
bytes behind it are equal (R78 item 4). -/
theorem foldBytes_set_ne (n : Nat) (ck : Word) {bs : List Byte} {k : Nat} {c : Byte} (hk : k < bs.length)
    (hc : bs[k] ≠ c) : foldBytes n ck bs ≠ foldBytes n ck (bs.set k c) := by
  induction bs generalizing n ck k with
  | nil => exact absurd hk (Nat.not_lt_zero k)
  | cons b bs ih =>
    cases k with
    | zero => exact fun h => hc (foldByte_byte_injective n ck (foldBytes_ck_injective (n + 1) bs h))
    | succ k => exact ih (n + 1) _ (Nat.lt_of_succ_lt_succ hk) hc

theorem streamChecksum_set_ne (p : Prng) {plain : List Byte} {k : Nat} {c : Byte} (hk : k < plain.length)
    (hc : plain[k] ≠ c) : streamChecksum p plain ≠ streamChecksum p (plain.set k c) := by
  have hne : plain ≠ [] := List.ne_nil_of_length_pos (Nat.zero_lt_of_lt hk)
  have hne' : plain.set k c ≠ [] := by simpa using hne
  rw [streamChecksum, streamChecksum, if_neg hne, if_neg hne']
  exact foldBytes_set_ne 0 _ hk hc

/-! ### A stream driven by unit commands -/

/-- The host's program for a stream: `CIPH_INIT` in the direction, then each byte, with its answer read back. -/
def streamProgram (d : BitVec 1) (bs : List Byte) : List Stmt :=
  .cmdArg .ciphInit d.toNat :: bs.flatMap fun b => [.cmdArg (byteCommand d) b.toNat, .rd .res0]

theorem encryptProgram_eq (bs : List Byte) : encryptProgram bs = streamProgram 1#1 bs := rfl

theorem decryptProgram_eq (bs : List Byte) : decryptProgram bs = streamProgram 0#1 bs := rfl

/-- The state in which a stream that started in `s₀` with direction `d` has moved the bytes `bs`. -/
structure Streamed (s₀ : State) (d : BitVec 1) (bs : List Byte) (s : State) : Prop where
  stream : StreamAt s₀.prng bs.length s.prng s.cipher
  dir : s.cipher.dir = d
  ck : s.cipher.ck = streamChecksum s₀.prng (plainSides d s₀.prng bs)
  reads : s.hostReads = s₀.hostReads ++ (keyed s₀.prng bs).map (BitVec.setWidth 32)

/-- The state `CIPH_INIT` with this direction in `ARG0` leaves. -/
def streamOpened (d : BitVec 1) (s : State) : State :=
  (s.setRegs { s.regs with arg0 := d.setWidth 32, err := none }).setCipher (cipherInit d)

/-- The state one byte of a stream leaves, its answer read back. -/
def byteStreamed (b : Byte) (s : State) : State :=
  let answer : Word := (b ^^^ s.keyByte).setWidth 32
  hostReturn answer (((s.setRegs { s.regs with arg0 := b.setWidth 32 }).answered answer 0x00000000#32).afterByte
    (plainSide s.cipher.dir b s.keyByte))

theorem runProgram_streamOpened (d : BitVec 1) (prog : List Stmt) (s : State) :
    runProgram (.cmdArg .ciphInit d.toNat :: prog) s = runProgram prog (streamOpened d s) := by
  have hdir : argDir ((s.setRegs { s.regs with arg0 := d.setWidth 32 }).setEvents (assemble prog)) = d := by
    rw [argDir, ← BitVec.setWidth_eq_extractLsb' (by decide)]
    exact setWidth_setWidth_of_narrow (by decide) d
  have hexec := exec_ciphInit ((s.setRegs { s.regs with arg0 := d.setWidth 32 }).setEvents (assemble prog))
  rw [hdir] at hexec
  exact (runProgram_cmdArg_narrow (by decide) hexec).trans (runEvents_setEvents _ (assemble prog) (streamOpened d s))

theorem runProgram_byteStreamed {s : State} (hv : s.prng.valid = true) (hpos : s.cipher.pos.toNat < 2 ^ 64 - 1)
    (b : Byte) (prog : List Stmt) :
    runProgram (.cmdArg (byteCommand s.cipher.dir) b.toNat :: .rd .res0 :: prog) s =
      runProgram prog (byteStreamed b s) := by
  have hb : (b.setWidth 32).setWidth 8 = b := setWidth_setWidth_of_narrow (by decide) b
  have hexec := exec_byteCommand
    (s := (s.setRegs { s.regs with arg0 := b.setWidth 32 }).setEvents (assemble (.rd .res0 :: prog))) hv hpos
  simp only [State.setEvents_regs, State.setRegs_regs, hb] at hexec
  refine (runProgram_cmdArg_narrow (by decide) hexec).trans ((runProgram_rd (by decide) _ _).trans ?_)
  exact runEvents_setEvents _ (assemble (.rd .res0 :: prog)) (byteStreamed b s)

/-! ### What a byte adds to a stream -/

/-- The PRNG that draws the next keystream byte: the seeding draw is behind it (R70). -/
theorem StreamAt.byteSeed_prng {p : Prng} {n : Nat} {s : State} (h : StreamAt p n s.prng s.cipher) :
    s.byteSeed.2 = prngAfter (n + 1) p := by
  obtain ⟨hprng, _, hseeded⟩ := h
  cases n <;> simp [State.byteSeed, hseeded, hprng, streamDraws]

theorem StreamAt.keyByte {p : Prng} {n : Nat} {s : State} (h : StreamAt p n s.prng s.cipher) :
    s.keyByte = streamKey p n := by
  rw [State.keyByte, h.byteSeed_prng, h.pos, streamKey]

/-- The accumulator the next byte is folded into (R70, R72). -/
theorem Streamed.byteSeed_ck {s₀ s : State} {d : BitVec 1} {bs : List Byte} (h : Streamed s₀ d bs s) :
    s.byteSeed.1 = foldBytes 0 (prngNext s₀.prng).1 (plainSides d s₀.prng bs) := by
  obtain ⟨⟨hprng, _, hseeded⟩, _, hck, _⟩ := h
  cases bs with
  | nil =>
    have hfresh : s.cipher.ckSeeded = false := hseeded
    rw [State.byteSeed, hfresh, hprng]
    rfl
  | cons b bs =>
    have htaken : s.cipher.ckSeeded = true := hseeded
    rw [State.byteSeed, htaken, if_pos rfl, hck, streamChecksum, if_neg (by simp [plainSides])]

theorem Streamed.start (d : BitVec 1) (s : State) : Streamed s d [] (streamOpened d s) :=
  ⟨.start rfl rfl s.prng, rfl, rfl, (List.append_nil _).symm⟩

theorem Streamed.valid {s₀ s : State} {d : BitVec 1} {bs : List Byte} (h : Streamed s₀ d bs s)
    (hv : s₀.prng.valid = true) : s.prng.valid = true := by
  rw [h.stream.prng, prngAfter_valid, hv]

theorem Streamed.byte {s₀ s : State} {d : BitVec 1} {bs : List Byte} (h : Streamed s₀ d bs s)
    (hlen : bs.length < 2 ^ 64 - 1) (b : Byte) : Streamed s₀ d (bs ++ [b]) (byteStreamed b s) := by
  have hkey : s.keyByte = streamKey s₀.prng bs.length := h.stream.keyByte
  refine ⟨?_, h.dir, ?_, ?_⟩
  · rw [List.length_append]
    exact h.stream.afterByte hlen _
  · have hfold : (byteStreamed b s).cipher.ck =
        foldByte s.cipher.pos.toNat s.byteSeed.1 (plainSide s.cipher.dir b s.keyByte) := rfl
    have hne : plainSides d s₀.prng bs ++ [plainSide d b (streamKey s₀.prng bs.length)] ≠ [] := by simp
    have hcount : (plainSides d s₀.prng bs).length = bs.length := List.length_mapIdx
    rw [hfold, h.byteSeed_ck, h.stream.pos, h.dir, hkey, plainSides_concat, streamChecksum, if_neg hne,
      foldBytes_concat, hcount, Nat.zero_add]
  · have hread : (byteStreamed b s).hostReads = s.hostReads ++ [(b ^^^ s.keyByte).setWidth 32] := rfl
    rw [hread, h.reads, hkey, keyed_concat, List.map_append, List.append_assoc]
    rfl

/-- The rest of a stream's bytes run through from any point of it, as `POS` has room for them. -/
theorem runProgram_bytes {s₀ s : State} {d : BitVec 1} {done : List Byte} (hv : s₀.prng.valid = true)
    (todo : List Byte) (h : Streamed s₀ d done s) (hlen : (done ++ todo).length < 2 ^ 64) :
    ∃ t, runProgram (todo.flatMap fun b => [.cmdArg (byteCommand d) b.toNat, .rd .res0]) s = .next t ∧
      Streamed s₀ d (done ++ todo) t := by
  induction todo generalizing done s with
  | nil =>
    refine ⟨_, runProgram_nil s, ?_⟩
    rw [List.append_nil]
    exact ⟨h.stream, h.dir, h.ck, h.reads⟩
  | cons b todo ih =>
    have hroom : done.length < 2 ^ 64 - 1 := by
      rw [List.length_append, List.length_cons] at hlen
      omega
    rw [List.append_cons] at hlen ⊢
    obtain ⟨t, hrun, ht⟩ := ih (h.byte hroom b) hlen
    have hbyte := runProgram_byteStreamed (h.valid hv) (by rwa [h.stream.pos]) b
      (todo.flatMap fun b => [.cmdArg (byteCommand d) b.toNat, .rd .res0])
    rw [h.dir] at hbyte
    exact ⟨t, hbyte.trans hrun, ht⟩

theorem runProgram_stream {s : State} (hv : s.prng.valid = true) (d : BitVec 1) {bs : List Byte}
    (hlen : bs.length < 2 ^ 64) : ∃ t, runProgram (streamProgram d bs) s = .next t ∧ Streamed s d bs t := by
  obtain ⟨t, hrun, ht⟩ := runProgram_bytes hv bs (.start d s) hlen
  exact ⟨t, (runProgram_streamOpened d _ s).trans hrun, ht⟩

/-! ### The properties of a stream (R78) -/

/-- Settles O46: the keystream undoes itself, and both streams fold the same plain bytes. -/
theorem decryptInvertsEncrypt : Obligations.DecryptInvertsEncrypt := by
  intro s plain hv hlen
  obtain ⟨t, hrun, ht⟩ := runProgram_stream hv 1#1 hlen
  obtain ⟨u, hrun', hu⟩ := runProgram_stream hv 0#1 (bs := keyed s.prng plain) (by rwa [length_keyed])
  refine ⟨keyed s.prng plain, t, u, hrun, ht.reads, hrun', ?_, ?_, ?_⟩
  · rw [hu.reads, keyed_keyed]
  · rw [hu.ck, ht.ck, plainSides_decrypt, keyed_keyed, plainSides_encrypt]
  · rw [hu.stream.prng, ht.stream.prng, length_keyed]

/-- Settles O47: `StreamAt` counts the draws by the number of bytes alone; with none, `CK` is as `CIPH_INIT` left it. -/
theorem streamDrawsDependOnItsLengthOnly : Obligations.StreamDrawsDependOnItsLengthOnly := by
  intro s bytes hv hlen draws
  obtain ⟨t, hrun, ht⟩ := runProgram_stream hv 1#1 hlen
  obtain ⟨u, hrun', hu⟩ := runProgram_stream hv 0#1 hlen
  refine ⟨t, u, hrun, ht.stream.prng, hrun', hu.stream.prng, ?_⟩
  rintro rfl
  exact ⟨ht.ck, hu.ck⟩

/-- One changed input byte changes the answer at its position, by the same XOR (R78 item 4). -/
theorem keyed_set_getD (p : Prng) {bs : List Byte} {k : Nat} (hk : k < bs.length) (c : Byte) (j : Nat) :
    (keyed p (bs.set k c)).getD j 0 =
      if j = k then (keyed p bs).getD j 0 ^^^ (bs.getD k 0 ^^^ c) else (keyed p bs).getD j 0 := by
  rw [keyed_set]
  by_cases hj : j = k
  · subst hj
    have hswap : bs[j] ^^^ streamKey p j ^^^ (bs[j] ^^^ c) = c ^^^ streamKey p j := by
      rw [BitVec.xor_comm bs[j], BitVec.xor_assoc, ← BitVec.xor_assoc bs[j], BitVec.xor_self, BitVec.zero_xor,
        BitVec.xor_comm]
    simp [List.getD_eq_getElem?_getD, keyed, hk, hswap]
  · simp [List.getD_eq_getElem?_getD, hj, Ne.symm hj]

/-- Settles O48: the keystream does not depend on the bytes, and the fold keeps the one difference to the end. -/
theorem oneTamperedByteChangesTheChecksum : Obligations.OneTamperedByteChangesTheChecksum := by
  intro s bytes k c hv hlen hk hc
  obtain ⟨t, hrun, ht⟩ := runProgram_stream hv 0#1 hlen
  obtain ⟨u, hrun', hu⟩ := runProgram_stream hv 0#1 (bs := bytes.set k c) (by rwa [List.length_set])
  refine ⟨_, _, t, u, hrun, ht.reads, hrun', hu.reads, by simp, by simp, fun j => ?_, ?_⟩
  · have hz : (0 : Word) = (0 : Byte).setWidth 32 := rfl
    rw [hz, List.getD_map, List.getD_map, keyed_set_getD _ hk]
    by_cases hj : j = k
    · subst hj
      rw [if_pos rfl, if_pos rfl, BitVec.setWidth_xor]
    · rw [if_neg hj, if_neg hj]
  · rw [ht.ck, hu.ck, plainSides_decrypt, plainSides_decrypt, keyed_set]
    refine streamChecksum_set_ne _ (by rwa [length_keyed]) ?_
    rw [List.getD_eq_getElem _ _ hk] at hc
    simpa [keyed] using hc

end Sys2Proof.Proofs

namespace Sys2Proof.Proofs

open Sys2Proof.Machine

/-! ### A command, refused or run -/

theorem exec_of_illegal {i : Instr} {s : State} (h : ¬legal i s.seq = true) :
    exec i s = .next (s.errored .unsupportedOperation 0x00000020#32) := by
  rw [exec_eq_command, command_of_illegal _ (Bool.eq_false_iff.2 h)]
  rfl

theorem exec_of_legal {i : Instr} {s : State} (h : legal i s.seq = true) : exec i s = ruleOf i (s.setErr none) := by
  rw [exec_eq_command, command_of_legal _ h]

theorem legal_rdOpen {q : Seq} : legal .rdOpen q = true ↔ q = .idle := by simp [legal]

theorem legal_rdHasnext {q : Seq} :
    legal .rdHasnext q = true ↔ q ∈ [.rHdr, .rEntries, .rInEntry, .rExhausted] := by simp [legal, or_assoc]

theorem legal_rdEntry {q : Seq} : legal .rdEntry q = true ↔ q ∈ [.rHdr, .rEntries] := by simp [legal]

theorem legal_rdPull {q : Seq} : legal .rdPull q = true ↔ q = .rInEntry := by simp [legal]

theorem legal_rdPut {q : Seq} : legal .rdPut q = true ↔ q = .rInEntry := by simp [legal]

theorem legal_rdFinish {q : Seq} : legal .rdFinish q = true ↔ q = .rInEntry := by simp [legal]

/-! ### Reading a header from `IN` -/

/-- Four bytes are the big-endian bytes of the word they join to (R33). -/
theorem cons4_eq_bytesBE32 (b0 b1 b2 b3 : Byte) (tail : List Byte) :
    b0 :: b1 :: b2 :: b3 :: tail = bytesBE32 (b0 ++ b1 ++ b2 ++ b3) ++ tail := by
  rw [bytesBE32_append]
  rfl

/-- A big-endian word that stands next on `IN` is read, and what followed it stands next (R30, R33). -/
theorem inRead32_of_drop {p : Ports} {v : Word} {tail : List Byte} (h : p.input.drop p.inPos = bytesBE32 v ++ tail) :
    inRead32 p = (v, { p with inPos := p.inPos + 4 }) ∧ p.input.drop (p.inPos + 4) = tail := by
  have hbyte (k : Nat) (hk : k < 4) : p.input.getD (p.inPos + k) 0 = (bytesBE32 v).getD k 0 := getD_of_drop h k hk
  have hbyte0 : p.input.getD p.inPos 0 = (bytesBE32 v).getD 0 0 := hbyte 0 (by decide)
  constructor
  · rw [inRead32_spec, hbyte0, hbyte 1 (by decide), hbyte 2 (by decide), hbyte 3 (by decide), ← be32_eq_append]
    exact congrArg (·, _) (be32_extractLsb' v)
  · rw [← List.drop_drop, h]
    rfl

/-- Bytes that stand next on `IN` are unread (R30). -/
theorem length_le_inAvail {p : Ports} {bs tail : List Byte} (h : p.input.drop p.inPos = bs ++ tail) :
    bs.length ≤ inAvail p := by
  have hlen := congrArg List.length h
  rw [List.length_drop, List.length_append] at hlen
  unfold inAvail
  omega

/-- A short header: what is left is consumed (R79, R81, R103). -/
theorem raiseTruncated_setErr (s : State) : raiseTruncated (s.setErr none) =
    State.errored { s with
      ports := { s.ports with inPos := max s.ports.inPos s.ports.input.length }
      seq := .fault } .truncated 0x00000040#32 := by
  rw [raiseTruncated, State.setErr_ports, inDrain_spec]
  rfl

/-! ### `RD_OPEN` -/

/-- The state with this global header read, the PRNG seeded and the key-checksum draws made (R79). -/
def headerRead (stored seed : Word) (s : State) : State :=
  let key := s.regs.arg0
  let kc := keyChecksum key (prngSeed (seed ^^^ key))
  { s.answered kc.1 stored with
    ports := { s.ports with inPos := s.ports.inPos + 8 }
    hdr := { s.hdr with hdrChk := stored, hdrSeed := seed, keyR := key, seedR := seed }
    prng := kc.2 }

theorem headerTaken_of_drop {s : State} {stored seed : Word} {tail : List Byte}
    (h : s.ports.input.drop s.ports.inPos = globalHeaderBytes stored seed ++ tail) :
    headerTaken (s.setErr none) = headerRead stored seed s := by
  rw [globalHeaderBytes, List.append_assoc] at h
  obtain ⟨hchk, hrest⟩ := inRead32_of_drop h
  obtain ⟨hseed, -⟩ := inRead32_of_drop (p := { s.ports with inPos := s.ports.inPos + 4 }) hrest
  rw [headerTaken, State.setErr_ports, hchk, hseed]
  rfl

section
variable {s : State} (hq : s.seq = .idle)
include hq

theorem exec_rdOpen_short (hlen : s.ports.input.length < s.ports.inPos + 8) :
    exec .rdOpen s = .next (State.errored { s with
      ports := { s.ports with inPos := max s.ports.inPos s.ports.input.length }
      seq := .fault } .truncated 0x00000040#32) := by
  have hshort : inAvail (s.setErr none).ports < 8 := by
    simp only [inAvail, State.setErr_ports]
    omega
  rw [exec_of_legal (legal_rdOpen.2 hq), ← raiseTruncated_setErr]
  exact if_pos hshort

section
variable {stored seed : Word} {tail : List Byte}
  (h : s.ports.input.drop s.ports.inPos = globalHeaderBytes stored seed ++ tail)
include h

/-- With a full header, the comparison decides (R79). -/
theorem exec_rdOpen_full :
    (¬((headerRead stored seed s).regs.res0 ≠ stored ∧ skipKeyChk s.regs.config = false) ∧
      exec .rdOpen s = .next ((headerRead stored seed s).setSeq .rHdr)) ∨
    (((headerRead stored seed s).regs.res0 ≠ stored ∧ skipKeyChk s.regs.config = false) ∧
      exec .rdOpen s = .next (raise .keyChecksum ((headerRead stored seed s).setSeq .fault))) := by
  have hlen : 8 ≤ inAvail (s.setErr none).ports := length_le_inAvail (p := s.ports) h
  have htaken := headerTaken_of_drop h
  rw [exec_of_legal (legal_rdOpen.2 hq)]
  rcases rdOpenRule_cases (s.setErr none) with ⟨hshort, _⟩ | ⟨_, hgood, hrun⟩ | ⟨_, hbad, hrun⟩
  · omega
  · rw [headerBad, htaken] at hgood
    exact .inl ⟨hgood, htaken ▸ hrun⟩
  · rw [headerBad, htaken] at hbad
    exact .inr ⟨hbad, htaken ▸ hrun⟩

theorem exec_rdOpen_accepted
    (hpass : (headerRead stored seed s).regs.res0 = stored ∨ s.regs.config.getLsbD 0 = true) :
    exec .rdOpen s = .next ((headerRead stored seed s).setSeq .rHdr) := by
  rcases exec_rdOpen_full hq h with ⟨_, hrun⟩ | ⟨⟨hne, hc⟩, _⟩
  · exact hrun
  · exact absurd hpass (not_or.2 ⟨hne, Bool.eq_false_iff.1 hc⟩)

theorem exec_rdOpen_rejected (hne : (headerRead stored seed s).regs.res0 ≠ stored)
    (hc : s.regs.config.getLsbD 0 = false) :
    exec .rdOpen s = .next (raise .keyChecksum ((headerRead stored seed s).setSeq .fault)) := by
  rcases exec_rdOpen_full hq h with ⟨hgood, _⟩ | ⟨_, hrun⟩
  · exact absurd ⟨hne, hc⟩ hgood
  · exact hrun

end

end

/-- Settles O16: the eight bytes are the header of the words they join to; the draws are those of `keyChecksum`. -/
theorem rdOpenReadsTheGlobalHeader : Obligations.RdOpenReadsTheGlobalHeader := by
  refine fun s => ⟨fun hq => exec_of_illegal (mt legal_rdOpen.1 hq), exec_rdOpen_short, ?_⟩
  intro b0 b1 b2 b3 b4 b5 b6 b7 tail hq hbytes stored seed key n kc t
  have hheader : s.ports.input.drop s.ports.inPos = globalHeaderBytes stored seed ++ tail := by
    rw [hbytes, cons4_eq_bytesBE32, cons4_eq_bytesBE32, globalHeaderBytes, List.append_assoc]
  have hread : headerRead stored seed s = t.answered kc stored := by
    rw [headerRead, keyChecksum_spec]
    rfl
  have haccept := exec_rdOpen_accepted hq hheader
  have hreject := exec_rdOpen_rejected hq hheader
  rw [hread] at haccept hreject
  exact ⟨haccept, fun hbad => hreject hbad.1 hbad.2⟩

/-! ### `RD_HASNEXT` -/

theorem inAvail_pos {p : Ports} : 0 < inAvail p ↔ p.inPos < p.input.length := by
  unfold inAvail
  omega

section
variable {s : State} (hq : s.seq ∈ [.rHdr, .rEntries, .rInEntry, .rExhausted])
include hq

theorem exec_rdHasnext_unread (hleft : s.ports.inPos < s.ports.input.length) :
    exec .rdHasnext s = .next (s.answered 0x00000001#32 0x00000000#32) := by
  rw [exec_of_legal (legal_rdHasnext.2 hq)]
  exact if_pos (inAvail_pos.2 hleft)

theorem exec_rdHasnext_end (hend : s.ports.input.length ≤ s.ports.inPos) :
    exec .rdHasnext s =
      if s.seq = .rHdr ∨ s.seq = .rEntries then
        .next { s.answered 0x00000000#32 0x00000000#32 with seq := .rExhausted }
      else .next (s.answered 0x00000000#32 0x00000000#32) := by
  rw [exec_of_legal (legal_rdHasnext.2 hq)]
  exact if_neg (mt inAvail_pos.1 (Nat.not_lt.2 hend))

end

/-- Between entries is where the reader is exhausted (R80). -/
theorem exec_rdHasnext_exhausted {s : State} (hq : s.seq = .rHdr ∨ s.seq = .rEntries)
    (hend : s.ports.input.length ≤ s.ports.inPos) :
    exec .rdHasnext s = .next { s.answered 0x00000000#32 0x00000000#32 with seq := .rExhausted } := by
  have hmem : s.seq ∈ [.rHdr, .rEntries, .rInEntry, .rExhausted] := by rcases hq with hq | hq <;> simp [hq]
  rw [exec_rdHasnext_end hmem hend, if_pos hq]

/-- Settles O17: outside the `SEQ` values of R80 it is refused, and `InAvail()` and `SEQ` give the three answers. -/
theorem rdHasnextReportsUnreadInput : Obligations.RdHasnextReportsUnreadInput := by
  refine fun s => ⟨fun hq => exec_of_illegal (mt legal_rdHasnext.1 hq), exec_rdHasnext_unread,
    fun hq => exec_rdHasnext_exhausted (by simpa using hq), fun hq hend => ?_⟩
  have hinside : ¬(s.seq = .rHdr ∨ s.seq = .rEntries) := by
    rcases List.mem_pair.1 hq with h | h <;> simp [h]
  rw [exec_rdHasnext_end (List.mem_cons_of_mem _ (List.mem_cons_of_mem _ hq)) hend, if_neg hinside]

/-! ### `RD_ENTRY` -/

/-- The state with this entry header read, the sizes unmasked by two draws and the entry opened (R81). -/
def entryRead (f0 f1 chk : Word) (s : State) : State :=
  let m1 := (prngNext s.prng).1
  let m2 := (prngNext (prngNext s.prng).2).1
  let csize := f0 ^^^ m1
  let dsize := f1 ^^^ m2
  { s.answered csize dsize with
    ports := { s.ports with inPos := s.ports.inPos + 12 }
    prng := prngAfter 2 s.prng
    entry := { csize := csize, dsize := dsize, chk := chk, copied := 0x00000000#32, mask1 := m1, mask2 := m2,
               clen := s.entry.clen, bufLatched := bufCommit s.regs.config }
    sub := subOpen csize
    cipher := cipherInit 0#1
    scratch := []
    seq := .rInEntry }

theorem entryOpened_of_drop {s : State} {f0 f1 chk : Word} {tail : List Byte}
    (h : s.ports.input.drop s.ports.inPos = bytesBE32 f0 ++ (bytesBE32 f1 ++ (bytesBE32 chk ++ tail))) :
    entryOpened (s.setErr none) = entryRead f0 f1 chk s := by
  obtain ⟨h0, hrest0⟩ := inRead32_of_drop h
  obtain ⟨h1, hrest1⟩ := inRead32_of_drop (p := { s.ports with inPos := s.ports.inPos + 4 }) hrest0
  obtain ⟨h2, -⟩ := inRead32_of_drop (p := { s.ports with inPos := s.ports.inPos + 4 + 4 }) hrest1
  rw [entryOpened, entryFields, State.setErr_ports, h0, h1, h2]
  rfl

section
variable {s : State} (hq : s.seq ∈ [.rHdr, .rEntries])
include hq

theorem exec_rdEntry_short (hlen : s.ports.input.length < s.ports.inPos + 12) :
    exec .rdEntry s = .next (State.errored { s with
      ports := { s.ports with inPos := max s.ports.inPos s.ports.input.length }
      seq := .fault } .truncated 0x00000040#32) := by
  have hshort : inAvail (s.setErr none).ports < 12 := by
    simp only [inAvail, State.setErr_ports]
    omega
  rw [exec_of_legal (legal_rdEntry.2 hq), ← raiseTruncated_setErr]
  exact if_pos hshort

theorem exec_rdEntry_full {f0 f1 chk : Word} {tail : List Byte}
    (h : s.ports.input.drop s.ports.inPos = bytesBE32 f0 ++ (bytesBE32 f1 ++ (bytesBE32 chk ++ tail))) :
    exec .rdEntry s = .next (entryRead f0 f1 chk s) := by
  have hheader : s.ports.input.drop s.ports.inPos = (bytesBE32 f0 ++ (bytesBE32 f1 ++ bytesBE32 chk)) ++ tail := by
    simpa only [List.append_assoc] using h
  have hlen : 12 ≤ inAvail (s.setErr none).ports := length_le_inAvail (p := s.ports) hheader
  rw [exec_of_legal (legal_rdEntry.2 hq), ← entryOpened_of_drop h]
  rcases rdEntryRule_cases (s.setErr none) with ⟨hshort, _⟩ | ⟨_, hrun⟩
  · omega
  · exact hrun

end

/-- Settles O18: the twelve bytes are three big-endian fields, and `entryRead` unmasks the first two. -/
theorem rdEntryReadsTheEntryHeader : Obligations.RdEntryReadsTheEntryHeader := by
  refine fun s => ⟨fun hq => exec_of_illegal (mt legal_rdEntry.1 hq), exec_rdEntry_short, ?_⟩
  intro b0 b1 b2 b3 b4 b5 b6 b7 b8 b9 b10 b11 tail hq hbytes
  rw [cons4_eq_bytesBE32 b0, cons4_eq_bytesBE32 b4, cons4_eq_bytesBE32 b8] at hbytes
  exact exec_rdEntry_full hq hbytes

/-! ### `RD_PULL` -/

section
variable {s : State} (hq : s.seq = .rInEntry)
include hq

theorem exec_rdPull_eod (hend : s.sub.cnt = s.sub.n ∨ s.ports.input.length ≤ s.ports.inPos) :
    exec .rdPull s = .next (s.answered 0x00000000#32 0x00000001#32) := by
  rw [exec_of_legal (legal_rdPull.2 hq)]
  rcases rdPullRule_cases (s.setErr none) with ⟨_, hrun⟩ | ⟨hne, hlt, _⟩
  · exact hrun
  · exact absurd hend (not_or.2 ⟨hne, Nat.not_le.2 hlt⟩)

/-- A byte that is taken goes to `DecryptByte`, whatever `DIR` and `PRNG_VALID` are (R82). -/
theorem exec_rdPull_taken {b : Byte} (hne : s.sub.cnt ≠ s.sub.n) (hb : s.ports.input[s.ports.inPos]? = some b) :
    exec .rdPull s = cipherResult (decryptByte b s.prng s.cipher) (byteTaken (s.setErr none)) := by
  have hlt : s.ports.inPos < s.ports.input.length := (List.getElem?_eq_some_iff.1 hb).1
  rcases subRead_cases s.sub s.ports with ⟨hend, _⟩ | ⟨_, b', hb', hread⟩
  · exact absurd hend (not_or.2 ⟨hne, Nat.not_le.2 hlt⟩)
  · obtain rfl : b = b' := Option.some.inj (hb.symm.trans hb')
    rw [exec_of_legal (legal_rdPull.2 hq), ruleOf, rdPullRule, State.setErr_sub, State.setErr_ports, hread]
    rfl

theorem exec_rdPull_byte {b : Byte} (hne : s.sub.cnt ≠ s.sub.n) (hb : s.ports.input[s.ports.inPos]? = some b)
    (hpos : s.cipher.pos.toNat < 2 ^ 64 - 1) :
    let plain := b ^^^ s.keyByte
    exec .rdPull s = .next { (s.answered (plain.setWidth 32) 0x00000000#32).afterByte plain with
      sub := { s.sub with cnt := s.sub.cnt + 1 }
      ports := { s.ports with inPos := s.ports.inPos + 1 } } := by
  have hbefore : s.cipher.pos ≠ BitVec.allOnes 64 := (pos_eq_allOnes _).not.2 (Nat.ne_of_lt hpos)
  rw [exec_rdPull_taken hq hne hb, decryptByte_spec, if_neg hbefore]
  rfl

end

/-- Settles O19: the end of the sub-range, then the byte that `DecryptByte` has no step for at the end of `POS`. -/
theorem rdPullDecryptsTheNextByte : Obligations.RdPullDecryptsTheNextByte := by
  refine fun s => ⟨fun hq => exec_of_illegal (mt legal_rdPull.1 hq), exec_rdPull_eod, fun b hq hne hb =>
    ⟨fun hpos => ?_, exec_rdPull_byte hq hne hb⟩⟩
  rw [exec_rdPull_taken hq hne hb, (decryptByte_eq_none b s).2 ((pos_eq_allOnes _).2 hpos), cipherResult]

/-! ### `RD_PUT` -/

section
variable {s : State} (hq : s.seq = .rInEntry)
include hq

theorem exec_rdPut_dropped (hle : s.entry.dsize.toNat ≤ s.entry.copied.toNat) :
    exec .rdPut s = .next s.accepted := by
  rw [exec_of_legal (legal_rdPut.2 hq)]
  exact rdPutRule_of_dropped (s := s.setErr none) hle

variable (hlt : s.entry.copied.toNat < s.entry.dsize.toNat)
include hlt

theorem exec_rdPut_unbuffered (hb : s.entry.bufLatched = false) :
    exec .rdPut s = .next { s.accepted with
      ports := { s.ports with out := s.ports.out ++ [s.regs.arg0.setWidth 8] }
      entry := { s.entry with copied := s.entry.copied + 1 } } := by
  rw [exec_of_legal (legal_rdPut.2 hq), ← argByte_eq]
  exact rdPutRule_of_unbuffered (s := s.setErr none) hlt hb

theorem exec_rdPut_buffered (hb : s.entry.bufLatched = true)
    (hroom : ∀ cap, s.scratchCap = some cap → s.scratch.length < cap) :
    exec .rdPut s = .next { s.accepted with
      scratch := s.scratch ++ [s.regs.arg0.setWidth 8]
      entry := { s.entry with copied := s.entry.copied + 1 } } := by
  rw [exec_of_legal (legal_rdPut.2 hq), ← argByte_eq]
  exact rdPutRule_of_room (s := s.setErr none) hlt hb hroom

theorem exec_rdPut_full {cap : Nat} (hb : s.entry.bufLatched = true) (hcap : s.scratchCap = some cap)
    (hfull : cap ≤ s.scratch.length) : exec .rdPut s = .fault .scratchFull := by
  rw [exec_of_legal (legal_rdPut.2 hq)]
  exact rdPutRule_of_full (s := s.setErr none) hlt hb hcap hfull

end

/-- Settles O20: the four outcomes of the rule, each under its own guard. -/
theorem rdPutCopiesAtMostTheDeclaredSize : Obligations.RdPutCopiesAtMostTheDeclaredSize :=
  fun _ => ⟨fun hq => exec_of_illegal (mt legal_rdPut.1 hq), exec_rdPut_dropped, exec_rdPut_unbuffered,
    exec_rdPut_buffered, fun _ hq hlt => exec_rdPut_full hq hlt⟩

/-! ### `RD_FINISH` -/

/-- The length check of R84, made unless its toggle skips it. -/
def LengthBad (s : State) : Prop :=
  s.regs.config.getLsbD 2 = false ∧ (s.entry.copied ≠ s.entry.dsize ∨ s.sub.cnt ≠ s.entry.csize)

/-- The checksum check of R84, made unless its toggle skips it. -/
def ChecksumBad (s : State) : Prop := s.regs.config.getLsbD 1 = false ∧ s.cipher.ck ≠ s.entry.chk

theorem finishError_of_lengthBad {s : State} (h : LengthBad s) : finishError s = some .sizeMismatch := if_pos h

/-- The length check is the first (R104 item 6). -/
theorem finishError_of_checksumBad {s : State} (hl : ¬LengthBad s) (hc : ChecksumBad s) :
    finishError s = some .entryChecksum := (if_neg hl).trans (if_pos hc)

theorem finishError_of_good {s : State} (hl : ¬LengthBad s) (hc : ¬ChecksumBad s) : finishError s = none :=
  (if_neg hl).trans (if_neg hc)

section
variable {s : State} (hq : s.seq = .rInEntry)
include hq

theorem exec_rdFinish_error {e : Error} (he : finishError s = some e) :
    exec .rdFinish s = .next (raise e (entryFinished (s.setErr none))) := by
  rw [exec_of_legal (legal_rdFinish.2 hq)]
  rcases rdFinishRule_cases (s.setErr none) with ⟨e', he', hrun⟩ | ⟨hnone, _⟩
  · obtain rfl : e = e' := Option.some.inj (he.symm.trans he')
    exact hrun
  · cases he.symm.trans hnone

theorem exec_rdFinish_committed (he : finishError s = none) :
    exec .rdFinish s = .next { s.answered s.entry.copied s.cipher.ck with
      scratch := []
      seq := .rEntries
      ports := { s.ports with out := s.ports.out ++ if s.entry.bufLatched then s.scratch else [] } } := by
  rw [exec_of_legal (legal_rdFinish.2 hq)]
  rcases rdFinishRule_cases (s.setErr none) with ⟨e', he', _⟩ | ⟨_, hrun⟩
  · cases he.symm.trans he'
  · exact hrun

end

/-- Settles O21: the two checks in their order, then the commit. -/
theorem rdFinishChecksAndCommits : Obligations.RdFinishChecksAndCommits :=
  fun _ => ⟨fun hq => exec_of_illegal (mt legal_rdFinish.1 hq),
    fun hq hl => exec_rdFinish_error hq (finishError_of_lengthBad hl),
    fun hq hl hc => exec_rdFinish_error hq (finishError_of_checksumBad hl hc),
    fun hq hl hc => exec_rdFinish_committed hq (finishError_of_good hl hc)⟩

end Sys2Proof.Proofs

namespace Sys2Proof.Proofs

open Sys2Proof.Machine

/-! ### Programs run to their end

A long program is followed piece by piece: `Runs` relates the states around a piece whatever stands behind it, so pieces
compose, and what a piece leaves is stated as a predicate on its last state (`WriterAt`, `BytesPushed`, `ReaderAt`,
`BytesPulled`, `BytesCopied`). Writer and reader meet in `containerBytes`, the bytes as a function of the PRNG. -/

/-- The program runs from `s` to its end without a stop and leaves `t`: what stands behind it goes on from there. -/
def Runs (prog : List Stmt) (s t : State) : Prop := ∀ rest, runProgram (prog ++ rest) s = runProgram rest t

theorem Runs.nil (s : State) : Runs [] s s := fun _ => rfl

theorem Runs.append {p q : List Stmt} {s t u : State} (hp : Runs p s t) (hq : Runs q t u) : Runs (p ++ q) s u :=
  fun rest => by rw [List.append_assoc, hp, hq]

theorem Runs.cons {st : Stmt} {q : List Stmt} {s t u : State} (hst : Runs [st] s t) (hq : Runs q t u) :
    Runs (st :: q) s u := hst.append hq

theorem Runs.runProgram_eq {prog : List Stmt} {s t : State} (h : Runs prog s t) :
    runProgram prog s = .next (t.setEvents []) := by
  rw [← runProgram_nil, ← h [], List.append_nil]

theorem runs_cmd {i : Instr} {s t : State} (h : ∀ es, exec i (s.setEvents es) = .next (t.setEvents es)) :
    Runs [.cmd i] s t :=
  fun _ => (runProgram_cmd (h _)).trans (runEvents_setEvents _ _ _)

theorem runs_cmdArg_word {i : Instr} {v : Word} {s t : State}
    (h : ∀ es, exec i ((s.setRegs { s.regs with arg0 := v }).setEvents es) = .next (t.setEvents es)) :
    Runs [.cmdArg i v.toNat] s t :=
  fun _ => (runProgram_cmdArg (h _)).trans (runEvents_setEvents _ _ _)

theorem runs_cmdArg_byte {i : Instr} {b : Byte} {s t : State}
    (h : ∀ es, exec i ((s.setRegs { s.regs with arg0 := b.setWidth 32 }).setEvents es) = .next (t.setEvents es)) :
    Runs [.cmdArg i b.toNat] s t :=
  fun _ => (runProgram_cmdArg_narrow (by decide) (h _)).trans (runEvents_setEvents _ _ _)

theorem runs_rd {r : Reg} (h : r ∈ plainRegs) (s : State) : Runs [.rd r] s (hostReturn (regValue r s) s) :=
  fun rest => runProgram_rd h rest s

/-- The state with both operands written. -/
def withArgs (a b : Word) (s : State) : State := s.setRegs { s.regs with arg0 := a, arg1 := b }

theorem runEvents_arg1 (v : Word) (es : List HostEvent) (s : State) :
    runEvents (wrEvent .arg1 v :: es) s = runEvents es (s.setRegs { s.regs with arg1 := v }) := by
  have hwrite : handleEvent (wrEvent .arg1 v) (s.setEvents es) =
      .next ((s.setRegs { s.regs with arg1 := v }).setEvents es) := handleEvent_wrEvent .arg1 v _
  exact (runEvents_cons hwrite).trans (runEvents_setEvents es es _)

/-- The two commands with two operands (R54). -/
theorem runs_twoArgs {st : Stmt} {i : Instr} {a b : Word} {s t : State}
    (hst : assembleStmt st = [wrEvent .arg0 a, wrEvent .arg1 b, cmdEvent i])
    (h : ∀ es, exec i ((withArgs a b s).setEvents es) = .next (t.setEvents es)) : Runs [st] s t := by
  intro rest
  have hassemble : assemble ([st] ++ rest) = wrEvent .arg0 a :: wrEvent .arg1 b :: cmdEvent i :: assemble rest := by
    simp [assemble, hst]
  rw [runProgram, hassemble, runEvents_arg0, runEvents_arg1]
  exact (runEvents_cons ((handleEvent_cmdEvent i _).trans (h _))).trans (runEvents_setEvents _ _ _)

/-! ### What a host accumulates over a run -/

/-- The bytes written, the values read, the errors recorded and the capacity of `SCRATCH`. -/
structure Session where
  out : List Byte
  reads : List Word
  sticky : Word
  cap : Option Nat

/-- What has been accumulated in this state. -/
def sessionOf (s : State) : Session := ⟨s.ports.out, s.hostReads, s.regs.errSticky, s.scratchCap⟩

/-- Bytes are appended to `OUT` (R31). -/
def Session.write (bs : List Byte) (v : Session) : Session := { v with out := v.out ++ bs }

/-- Values are returned to the host (R28). -/
def Session.read (ws : List Word) (v : Session) : Session := { v with reads := v.reads ++ ws }

theorem sessionOf_hostReturn (w : Word) (s : State) : sessionOf (hostReturn w s) = (sessionOf s).read [w] := rfl

theorem Session.write_nil (v : Session) : v.write [] = v := by simp [Session.write]

theorem Session.read_nil (v : Session) : v.read [] = v := by simp [Session.read]

theorem Session.write_write (v : Session) (bs cs : List Byte) : (v.write bs).write cs = v.write (bs ++ cs) := by
  simp [Session.write]

theorem Session.read_read (v : Session) (ws xs : List Word) : (v.read ws).read xs = v.read (ws ++ xs) := by
  simp [Session.read]

theorem Session.read_write (v : Session) (ws : List Word) (bs : List Byte) :
    (v.read ws).write bs = (v.write bs).read ws := rfl

/-! ### The bytes of a container -/

/-- The PRNG after an entry: the two masks, then the draws of its stream (R94). -/
def entryPrng (p : Prng) (e : EntryData) : Prng := prngAfter (streamDraws e.packed.length) (prngAfter 2 p)

/-- The checksum of an entry that starts from the PRNG `p`: its stream starts behind the two masks. -/
def entryChecksum (p : Prng) (e : EntryData) : Word := streamChecksum (prngAfter 2 p) e.packed

/-- An entry on the wire: the header with the masked sizes, then the payload (R49, R51). -/
def entryBytes (p : Prng) (e : EntryData) : List Byte :=
  entryHeaderBytes (BitVec.ofNat 32 e.packed.length) (BitVec.ofNat 32 e.text.length) (prngNext p).1
    (prngNext (prngNext p).2).1 (entryChecksum p e) ++ keyed (prngAfter 2 p) e.packed

/-- The PRNG after some entries. -/
def entriesPrng (p : Prng) (es : List EntryData) : Prng := es.foldl entryPrng p

/-- The checksums of some entries, each from the PRNG the entry before it left. -/
def entriesChecksums : Prng → List EntryData → List Word
  | _, [] => []
  | p, e :: es => entryChecksum p e :: entriesChecksums (entryPrng p e) es

/-- Some entries on the wire. -/
def entriesBytes : Prng → List EntryData → List Byte
  | _, [] => []
  | p, e :: es => entryBytes p e ++ entriesBytes (entryPrng p e) es

theorem length_entriesChecksums (p : Prng) (es : List EntryData) : (entriesChecksums p es).length = es.length := by
  induction es generalizing p with
  | nil => rfl
  | cons e es ih => exact congrArg (· + 1) (ih _)

/-- The key checksum of a container and the PRNG its first entry starts from (R59, R79, R91). -/
def containerStart (key seed : Word) : Word × Prng := keyChecksum key (prngSeed (seed ^^^ key))

/-- A whole container: the global header, then the entries (R49). -/
def containerBytes (key seed : Word) (es : List EntryData) : List Byte :=
  globalHeaderBytes (containerStart key seed).1 seed ++ entriesBytes (containerStart key seed).2 es

/-! ### A stream with its plain bytes -/

/-- The PRNG and the cipher when a stream that started fresh with the PRNG `p` has moved these plain bytes. -/
structure StreamOver (p : Prng) (plain : List Byte) (q : Prng) (c : Cipher) : Prop where
  count : StreamAt p plain.length q c
  ck : c.ck = streamChecksum p plain

theorem StreamOver.start (p : Prng) (d : BitVec 1) : StreamOver p [] p (cipherInit d) :=
  ⟨.start rfl rfl p, rfl⟩

section
variable {p : Prng} {plain : List Byte} {s : State} (h : StreamOver p plain s.prng s.cipher)
include h

/-- The accumulator the next byte is folded into (R70, R72). -/
theorem StreamOver.byteSeed_ck : s.byteSeed.1 = foldBytes 0 (prngNext p).1 plain := by
  obtain ⟨⟨hprng, _, hseeded⟩, hck⟩ := h
  cases plain with
  | nil => simp [State.byteSeed, hseeded, hprng, streamDraws, foldBytes]
  | cons b plain => simp [State.byteSeed, hseeded, hck, streamChecksum]

theorem StreamOver.afterByte (hlen : plain.length < 2 ^ 64 - 1) (b : Byte) :
    StreamOver p (plain ++ [b]) (s.afterByte b).prng (s.afterByte b).cipher := by
  have hfold : (s.afterByte b).cipher.ck = foldByte s.cipher.pos.toNat s.byteSeed.1 b := rfl
  refine ⟨?_, ?_⟩
  · rw [List.length_append]
    exact h.count.afterByte hlen b
  · rw [hfold, h.byteSeed_ck, h.count.pos, streamChecksum, if_neg (by simp), foldBytes_concat, Nat.zero_add]

end

/-- The part of a keyed stream from position `n` on. -/
def keyedFrom (p : Prng) (n : Nat) (bs : List Byte) : List Byte := bs.mapIdx fun k b => b ^^^ streamKey p (n + k)

theorem keyedFrom_zero (p : Prng) (bs : List Byte) : keyedFrom p 0 bs = keyed p bs := by
  simp [keyedFrom, keyed]

theorem keyedFrom_cons (p : Prng) (n : Nat) (b : Byte) (bs : List Byte) :
    keyedFrom p n (b :: bs) = (b ^^^ streamKey p n) :: keyedFrom p (n + 1) bs := by
  simp [keyedFrom, List.mapIdx_cons, Nat.add_assoc, Nat.add_comm 1]

/-! ### The writer's commands -/

theorem legal_wrOpen {q : Seq} : legal .wrOpen q = true ↔ q = .idle := by simp [legal]

theorem legal_wrBegin {q : Seq} : legal .wrBegin q = true ↔ q ∈ [.wPending, .wEntries] := by simp [legal]

theorem legal_wrPush {q : Seq} : legal .wrPush q = true ↔ q = .wInEntry := by simp [legal]

theorem legal_wrEnd {q : Seq} : legal .wrEnd q = true ↔ q = .wInEntry := by simp [legal]

theorem exec_wrOpen {s : State} (hq : s.seq = .idle) :
    exec .wrOpen s = .next { s.accepted with
      hdr := { s.hdr with keyR := s.regs.arg0, seedR := s.regs.arg1, hdrDone := false }
      prng := prngSeed (s.regs.arg1 ^^^ s.regs.arg0)
      seq := .wPending } := by
  rw [exec_of_legal (legal_wrOpen.2 hq)]
  rfl

theorem exec_wrBegin {s : State} (hq : s.seq ∈ [.wPending, .wEntries]) :
    exec .wrBegin s = .next (entryBegun (emitHeader (s.setErr none))) := by
  rw [exec_of_legal (legal_wrBegin.2 hq)]
  rfl

theorem exec_wrPush_byte {s : State} (hq : s.seq = .wInEntry) (hpos : s.cipher.pos.toNat < 2 ^ 64 - 1)
    (hclen : s.entry.clen.toNat < 2 ^ 64 - 1) (hroom : ∀ cap, s.scratchCap = some cap → s.scratch.length < cap) :
    let plain : Byte := s.regs.arg0.setWidth 8
    let cipherByte := plain ^^^ s.keyByte
    exec .wrPush s = .next { (s.answered (cipherByte.setWidth 32) 0x00000000#32).afterByte plain with
      scratch := s.scratch ++ [cipherByte]
      entry := { s.entry with clen := s.entry.clen + 1 } } := by
  have hbefore : s.cipher.pos ≠ BitVec.allOnes 64 := (pos_eq_allOnes _).not.2 (Nat.ne_of_lt hpos)
  have hcount : s.entry.clen ≠ BitVec.allOnes 64 := (pos_eq_allOnes _).not.2 (Nat.ne_of_lt hclen)
  have henc := (encryptByte_spec (argByte s) s).trans (if_neg hbefore)
  rw [exec_of_legal (legal_wrPush.2 hq), ← argByte_eq]
  exact wrPushRule_of_room (s := s.setErr none) henc hroom hcount

theorem exec_wrEnd_fits {s : State} (hq : s.seq = .wInEntry) (hclen : s.entry.clen.toNat ≤ 0xFFFFFFFF)
    (hsize : (argSize s).toNat ≤ 0xFFFFFFFF) : exec .wrEnd s = .next (entryEnded (s.setErr none)) := by
  have hfits : ¬(s.entry.clen > 0xFFFFFFFF#64 ∨ argSize s > 0xFFFFFFFF#64) := by
    refine not_or.2 ⟨?_, ?_⟩ <;> exact Nat.not_lt.2 (by assumption)
  rw [exec_of_legal (legal_wrEnd.2 hq)]
  exact if_neg hfits

/-! ### Writing one entry -/

/-- The header does not depend on the waiting events or on `STATUS.ERR`, and changes neither. -/
theorem emitHeader_setEvents (s : State) (es : List HostEvent) :
    emitHeader ((s.setEvents es).setErr none) = ((emitHeader s).setErr none).setEvents es := by
  cases h : s.hdr.hdrDone <;> simp [emitHeader, h] <;> rfl

theorem entryBegun_setEvents (s : State) (es : List HostEvent) :
    entryBegun (s.setEvents es) = (entryBegun s).setEvents es := by
  simp only [entryBegun, State.setEvents_prng, State.setEvents_entry]
  rfl

theorem emitHeader_of_done {s : State} (h : s.hdr.hdrDone = true) : emitHeader s = s := if_pos h

theorem emitHeader_hdrDone (s : State) : (emitHeader s).hdr.hdrDone = true := by
  rcases emitHeader_cases s with ⟨hdone, h⟩ | ⟨_, _, _, _, hdone, h⟩ <;> rw [h]
  · exact hdone
  · exact hdone

/-- The state `WR_BEGIN` leaves. -/
def begunFrom (s : State) : State := entryBegun ((emitHeader s).setErr none)

theorem begunFrom_prng (s : State) : (begunFrom s).prng = prngAfter 2 (emitHeader s).prng := by
  simp [begunFrom, entryBegun]

theorem begunFrom_mask1 (s : State) : (begunFrom s).entry.mask1 = (prngNext (emitHeader s).prng).1 := by
  simp [begunFrom, entryBegun]

theorem begunFrom_mask2 (s : State) :
    (begunFrom s).entry.mask2 = (prngNext (prngNext (emitHeader s).prng).2).1 := by
  simp [begunFrom, entryBegun]

theorem sessionOf_begunFrom (s : State) : sessionOf (begunFrom s) = sessionOf (emitHeader s) := rfl

theorem runs_wrBegin {s : State} (hq : s.seq ∈ [.wPending, .wEntries]) : Runs [.cmd .wrBegin] s (begunFrom s) := by
  refine runs_cmd fun es => ?_
  rw [exec_wrBegin (s := s.setEvents es) hq, emitHeader_setEvents, entryBegun_setEvents, begunFrom]

/-- The state in which the entry begun in `s₀` has been given these bytes. -/
structure BytesPushed (s₀ : State) (done : List Byte) (s : State) : Prop where
  stream : StreamOver s₀.prng done s.prng s.cipher
  scratch : s.scratch = keyed s₀.prng done
  entry : s.entry = { s₀.entry with clen := BitVec.ofNat 64 done.length }
  seq : s.seq = .wInEntry
  hdr : s.hdr = s₀.hdr
  session : sessionOf s = sessionOf s₀

theorem BytesPushed.start (s : State) : BytesPushed (begunFrom s) [] (begunFrom s) :=
  ⟨.start _ 1#1, rfl, rfl, rfl, rfl, rfl⟩

theorem BytesPushed.scratchCap {s₀ s : State} {done : List Byte} (h : BytesPushed s₀ done s) :
    s.scratchCap = s₀.scratchCap := congrArg Session.cap h.session

/-- A length of a list that fits 32 bits, in a wider counter. -/
theorem toNat_ofNat_of_le {w n : Nat} (hn : n ≤ 0xFFFFFFFF) (hw : 32 ≤ w) : (BitVec.ofNat w n).toNat = n := by
  have hpow : 2 ^ 32 ≤ 2 ^ w := Nat.pow_le_pow_right (by decide) hw
  exact (BitVec.toNat_ofNat _ _).trans (Nat.mod_eq_of_lt (by omega))

theorem BytesPushed.push {s₀ s : State} {done : List Byte} (h : BytesPushed s₀ done s) (b : Byte)
    (hlen : done.length < 0xFFFFFFFF) (hroom : ∀ cap, s₀.scratchCap = some cap → done.length < cap) :
    ∃ t, Runs [.cmdArg .wrPush b.toNat] s t ∧ BytesPushed s₀ (done ++ [b]) t := by
  have hkey : s.keyByte = streamKey s₀.prng done.length := h.stream.count.keyByte
  have hclen : s.entry.clen.toNat < 2 ^ 64 - 1 := by
    rw [h.entry]
    exact (toNat_ofNat_of_le hlen.le (by decide)).trans_lt (by omega)
  have hpos : s.cipher.pos.toNat < 2 ^ 64 - 1 := by
    rw [h.stream.count.pos]
    omega
  have hfree (cap : Nat) (hcap : s.scratchCap = some cap) : s.scratch.length < cap := by
    rw [h.scratch, length_keyed]
    exact hroom cap (h.scratchCap ▸ hcap)
  have hbyte : (b.setWidth 32).setWidth 8 = b := setWidth_setWidth_of_narrow (by decide) b
  refine ⟨{ ((s.setRegs { s.regs with arg0 := b.setWidth 32 }).answered ((b ^^^ s.keyByte).setWidth 32)
      0x00000000#32).afterByte b with
      scratch := s.scratch ++ [b ^^^ s.keyByte]
      entry := { s.entry with clen := s.entry.clen + 1 } }, runs_cmdArg_byte fun es => ?_, ?_⟩
  · have hexec := exec_wrPush_byte
      (s := (s.setRegs { s.regs with arg0 := b.setWidth 32 }).setEvents es) h.seq hpos hclen hfree
    simp only [State.setEvents_regs, State.setRegs_regs, hbyte] at hexec
    exact hexec
  · exact
      { stream := h.stream.afterByte (by omega) b
        scratch := by rw [keyed_concat, ← h.scratch, ← hkey]
        entry := by
          rw [h.entry, List.length_append, List.length_singleton, BitVec.ofNat_add]
          rfl
        seq := h.seq
        hdr := h.hdr
        session := h.session }

theorem BytesPushed.pushAll {s₀ s : State} {done : List Byte} (h : BytesPushed s₀ done s) (todo : List Byte)
    (hlen : (done ++ todo).length ≤ 0xFFFFFFFF)
    (hroom : ∀ cap, s₀.scratchCap = some cap → (done ++ todo).length ≤ cap) :
    ∃ t, Runs (todo.map fun b => .cmdArg .wrPush b.toNat) s t ∧ BytesPushed s₀ (done ++ todo) t := by
  induction todo generalizing done s with
  | nil => exact ⟨s, .nil s, by rwa [List.append_nil]⟩
  | cons b todo ih =>
    have hshort : done.length < (done ++ b :: todo).length := by simp
    obtain ⟨t, hrun, ht⟩ := h.push b (by omega) fun cap hcap => Nat.lt_of_lt_of_le hshort (hroom cap hcap)
    rw [List.append_cons] at hlen hroom ⊢
    obtain ⟨u, hrest, hu⟩ := ih ht hlen hroom
    exact ⟨u, hrun.cons hrest, hu⟩

theorem hi32_append_lo32 (v : DWord) : hi32 v ++ lo32 v = v := by
  apply BitVec.eq_of_toNat_eq
  rw [BitVec.toNat_append, ← Nat.shiftLeft_add_eq_or_of_lt (lo32 v).isLt, Nat.shiftLeft_eq, hi32_eq_ofNat,
    lo32_eq_ofNat, BitVec.toNat_ofNat, BitVec.toNat_ofNat]
  omega

theorem lo32_ofNat (n : Nat) : lo32 (BitVec.ofNat 64 n) = BitVec.ofNat 32 n := by
  apply BitVec.eq_of_toNat_eq
  rw [lo32_eq_ofNat, BitVec.toNat_ofNat, BitVec.toNat_ofNat, BitVec.toNat_ofNat]
  omega

/-- The state `WR_END` leaves when its operand is `n`. -/
def endedWith (n : Nat) (s : State) : State :=
  entryEnded ((withArgs (lo32 (BitVec.ofNat 64 n)) (hi32 (BitVec.ofNat 64 n)) s).setErr none)

theorem argSize_withArgs (v : DWord) (s : State) : argSize (withArgs (lo32 v) (hi32 v) s) = v := hi32_append_lo32 v

theorem runs_wrEnd {s : State} (hq : s.seq = .wInEntry) (hclen : s.entry.clen.toNat ≤ 0xFFFFFFFF) {n : Nat}
    (hn : n ≤ 0xFFFFFFFF) : Runs [.wrEndSize n] s (endedWith n s) := by
  have hsize : (argSize (withArgs (lo32 (BitVec.ofNat 64 n)) (hi32 (BitVec.ofNat 64 n)) s)).toNat ≤ 0xFFFFFFFF := by
    rwa [argSize_withArgs, toNat_ofNat_of_le hn (by decide)]
  exact runs_twoArgs rfl fun es => exec_wrEnd_fits (s := (withArgs _ _ s).setEvents es) hq hclen hsize

/-- What `WR_END` writes: the header over the entry registers, then `SCRATCH` (R93). -/
theorem sessionOf_endedWith (n : Nat) (s : State) :
    sessionOf (endedWith n s) = (sessionOf s).write
      (entryHeaderBytes (lo32 s.entry.clen) (BitVec.ofNat 32 n) s.entry.mask1 s.entry.mask2 s.cipher.ck ++
        s.scratch) := by
  have hwritten (u : State) : sessionOf (entryEnded u) = (sessionOf u).write
      (entryHeaderBytes (lo32 u.entry.clen) (lo32 (argSize u)) u.entry.mask1 u.entry.mask2 u.cipher.ck ++
        u.scratch) := rfl
  rw [← lo32_ofNat, ← argSize_withArgs (BitVec.ofNat 64 n) s]
  exact hwritten _

/-- The entry is complete: `WR_END` with its decompressed size, and the checksum read back. -/
theorem BytesPushed.finish {s₀ s : State} {done : List Byte} (h : BytesPushed s₀ done s)
    (hlen : done.length ≤ 0xFFFFFFFF) {n : Nat} (hn : n ≤ 0xFFFFFFFF) :
    ∃ t, Runs [.wrEndSize n, .rd .res1] s t ∧ t.seq = .wEntries ∧ t.hdr = s₀.hdr ∧
      t.prng = prngAfter (streamDraws done.length) s₀.prng ∧
      sessionOf t = ((sessionOf s₀).write
        (entryHeaderBytes (BitVec.ofNat 32 done.length) (BitVec.ofNat 32 n) s₀.entry.mask1 s₀.entry.mask2
          (streamChecksum s₀.prng done) ++ keyed s₀.prng done)).read [streamChecksum s₀.prng done] := by
  have hclen : s.entry.clen.toNat ≤ 0xFFFFFFFF := by
    rw [h.entry]
    exact (toNat_ofNat_of_le hlen (by decide)).trans_le hlen
  have hck : regValue .res1 (endedWith n s) = streamChecksum s₀.prng done := h.stream.ck
  refine ⟨_, (runs_wrEnd h.seq hclen hn).cons (runs_rd (by decide) _), rfl, h.hdr, h.stream.count.prng, ?_⟩
  rw [sessionOf_hostReturn, hck, sessionOf_endedWith, h.entry, h.stream.ck, h.scratch, h.session, lo32_ofNat]

/-! ### Writing a container -/

/-- The writer between entries: `p` and `v` are the PRNG and the session once the global header is out, which the next
`WR_BEGIN` still has to write if the writer is pending. -/
structure WriterAt (p : Prng) (v : Session) (s : State) : Prop where
  seq : s.seq ∈ [.wPending, .wEntries]
  prng : (emitHeader s).prng = p
  session : sessionOf (emitHeader s) = v

theorem WriterAt.of_done {p : Prng} {v : Session} {s : State} (hq : s.seq = .wEntries)
    (hdone : s.hdr.hdrDone = true) (hprng : s.prng = p) (hv : sessionOf s = v) : WriterAt p v s :=
  ⟨by simp [hq], (emitHeader_of_done hdone).symm ▸ hprng, (emitHeader_of_done hdone).symm ▸ hv⟩

/-- One entry written: its bytes, its draws, and its checksum read back (R94). -/
theorem WriterAt.runs_writeEntry {p : Prng} {v : Session} {s : State} (h : WriterAt p v s) {e : EntryData}
    (hlen : e.packed.length ≤ 0xFFFFFFFF) (htext : e.text.length ≤ 0xFFFFFFFF)
    (hroom : ∀ cap, v.cap = some cap → e.packed.length ≤ cap) :
    ∃ t, Runs (writeEntry e) s t ∧ t.hdr.hdrDone = true ∧
      WriterAt (entryPrng p e) ((v.write (entryBytes p e)).read [entryChecksum p e]) t := by
  obtain ⟨hq, rfl, rfl⟩ := h
  obtain ⟨t, hpush, ht⟩ := (BytesPushed.start s).pushAll e.packed hlen hroom
  obtain ⟨u, hend, hq', hhdr, hprng, hsession⟩ := ht.finish hlen htext
  rw [begunFrom_prng] at hprng
  rw [begunFrom_prng, begunFrom_mask1, begunFrom_mask2, sessionOf_begunFrom] at hsession
  have hdone : u.hdr.hdrDone = true := (congrArg Header.hdrDone hhdr).trans (emitHeader_hdrDone s)
  exact ⟨u, (runs_wrBegin hq).cons (hpush.append hend), hdone, .of_done hq' hdone hprng hsession⟩

theorem WriterAt.runs_writeEntries {p : Prng} {v : Session} {s : State} (h : WriterAt p v s) (es : List EntryData)
    (hlen : ∀ e ∈ es, e.packed.length ≤ 0xFFFFFFFF ∧ e.text.length ≤ 0xFFFFFFFF)
    (hroom : ∀ cap, v.cap = some cap → ∀ e ∈ es, e.packed.length ≤ cap) :
    ∃ t, Runs (es.flatMap writeEntry) s t ∧
      (s.hdr.hdrDone = true ∨ es ≠ [] → t.hdr.hdrDone = true) ∧
      WriterAt (entriesPrng p es) ((v.write (entriesBytes p es)).read (entriesChecksums p es)) t := by
  induction es generalizing p v s with
  | nil =>
    refine ⟨s, .nil s, fun hdone => hdone.resolve_right fun hne => hne rfl, ?_⟩
    rwa [entriesBytes, entriesChecksums, Session.write_nil, Session.read_nil]
  | cons e es ih =>
    obtain ⟨⟨hpacked, htext⟩, hlen⟩ := List.forall_mem_cons.1 hlen
    obtain ⟨t, hrun, hdone, ht⟩ :=
      h.runs_writeEntry hpacked htext fun cap hcap => hroom cap hcap e List.mem_cons_self
    obtain ⟨u, hrest, hdone', hu⟩ :=
      ih ht hlen fun cap hcap e' he' => hroom cap hcap e' (List.mem_cons_of_mem _ he')
    refine ⟨u, hrun.append hrest, fun _ => hdone' (.inl hdone), ?_⟩
    rwa [Session.read_write, Session.write_write, Session.read_read] at hu

/-- The state `WR_OPEN` leaves, with its operands. -/
def writerOpened (key seed : Word) (s : State) : State :=
  { (withArgs key seed s).accepted with
    hdr := { s.hdr with keyR := key, seedR := seed, hdrDone := false }
    prng := prngSeed (seed ^^^ key)
    seq := .wPending }

theorem runs_wrOpen {s : State} (hq : s.seq = .idle) (key seed : Word) :
    Runs [.wrOpenArgs key.toNat seed.toNat] s (writerOpened key seed s) :=
  runs_twoArgs (a := key) (b := seed) (by simp [assembleStmt]) fun es =>
    exec_wrOpen (s := (withArgs key seed s).setEvents es) hq

theorem WriterAt.start (key seed : Word) (s : State) :
    WriterAt (containerStart key seed).2
      ((sessionOf s).write (globalHeaderBytes (containerStart key seed).1 seed)) (writerOpened key seed s) := by
  have hpending : emitHeader (writerOpened key seed s) = _ := if_neg (by simp [writerOpened])
  refine ⟨by simp [writerOpened], ?_, ?_⟩ <;>
    · rw [hpending]
      rfl

/-- A writer run over at least one entry (R96). -/
theorem runs_writeContainer {s : State} (hq : s.seq = .idle) (key seed : Word) {es : List EntryData} (hne : es ≠ [])
    (hlen : ∀ e ∈ es, e.packed.length ≤ 0xFFFFFFFF ∧ e.text.length ≤ 0xFFFFFFFF)
    (hroom : ∀ cap, s.scratchCap = some cap → ∀ e ∈ es, e.packed.length ≤ cap) :
    ∃ t, Runs (writeContainer key seed es) s t ∧ t.prng = entriesPrng (containerStart key seed).2 es ∧
      sessionOf t = ((sessionOf s).write (containerBytes key seed es)).read
        (entriesChecksums (containerStart key seed).2 es) := by
  obtain ⟨t, hrun, hdone, ht⟩ := (WriterAt.start key seed s).runs_writeEntries es hlen hroom
  have hout : emitHeader t = t := emitHeader_of_done (hdone (.inr hne))
  refine ⟨t, (runs_wrOpen hq key seed).cons hrun, hout ▸ ht.prng, ?_⟩
  rw [containerBytes, ← Session.write_write]
  exact hout ▸ ht.session

/-! ### The unread bytes of `IN` -/

/-- These bytes are what is left to read. -/
structure Unread (p : Ports) (bs : List Byte) : Prop where
  bytes : p.input.drop p.inPos = bs
  length : p.inPos + bs.length = p.input.length

theorem Unread.advance {p : Ports} {as bs : List Byte} (h : Unread p (as ++ bs)) :
    Unread { p with inPos := p.inPos + as.length } bs := by
  refine ⟨?_, ?_⟩
  · rw [← List.drop_drop, h.bytes, List.drop_left]
  · rw [← h.length, List.length_append, Nat.add_assoc]

theorem Unread.getElem?_inPos {p : Ports} {b : Byte} {bs : List Byte} (h : Unread p (b :: bs)) :
    p.input[p.inPos]? = some b := by
  have hhead := congrArg (·[0]?) h.bytes
  simpa using hhead

theorem Unread.write {p : Ports} {bs : List Byte} (h : Unread p bs) (out : List Byte) :
    Unread { p with out := out } bs := ⟨h.bytes, h.length⟩

/-! ### Reading one entry -/

/-- The reader has opened the entry `e`, which the PRNG `p` and the session `v` preceded, and `rest` follows it. -/
structure EntryOpened (p : Prng) (v : Session) (e : EntryData) (rest : List Byte) (s : State) : Prop where
  prng : s.prng = prngAfter 2 p
  cipher : s.cipher = cipherInit 0#1
  sub : s.sub = subOpen (BitVec.ofNat 32 e.packed.length)
  csize : s.entry.csize = BitVec.ofNat 32 e.packed.length
  dsize : s.entry.dsize = BitVec.ofNat 32 e.text.length
  chk : s.entry.chk = entryChecksum p e
  copied : s.entry.copied = 0
  scratch : s.scratch = []
  seq : s.seq = .rInEntry
  unread : Unread s.ports (keyed (prngAfter 2 p) e.packed ++ rest)
  session : sessionOf s = v.read [BitVec.ofNat 32 e.packed.length, BitVec.ofNat 32 e.text.length]

/-- A mask is its own inverse. -/
theorem xor_xor_self {w : Nat} (x m : BitVec w) : x ^^^ m ^^^ m = x := by
  rw [BitVec.xor_assoc, BitVec.xor_self, BitVec.xor_zero]

theorem runs_rdEntry {s : State} (hq : s.seq ∈ [.rHdr, .rEntries]) {f0 f1 chk : Word} {tail : List Byte}
    (h : s.ports.input.drop s.ports.inPos = bytesBE32 f0 ++ (bytesBE32 f1 ++ (bytesBE32 chk ++ tail))) :
    Runs [.cmd .rdEntry] s (entryRead f0 f1 chk s) :=
  runs_cmd fun es => exec_rdEntry_full (s := s.setEvents es) hq h

theorem runs_openEntry {s : State} (hq : s.seq ∈ [.rHdr, .rEntries]) {e : EntryData} {rest : List Byte}
    (h : Unread s.ports (entryBytes s.prng e ++ rest)) :
    ∃ t, Runs [.cmd .rdEntry, .rd .res0, .rd .res1] s t ∧ EntryOpened s.prng (sessionOf s) e rest t := by
  have hbytes := h.bytes
  simp only [entryBytes, entryHeaderBytes, List.append_assoc] at hbytes
  have hrun := runs_rdEntry hq hbytes
  rw [entryBytes, List.append_assoc] at h
  have hcsize := xor_xor_self (BitVec.ofNat 32 e.packed.length) (prngNext s.prng).1
  have hdsize := xor_xor_self (BitVec.ofNat 32 e.text.length) (prngNext (prngNext s.prng).2).1
  refine ⟨_, hrun.cons ((runs_rd (by decide) _).cons (runs_rd (by decide) _)), ?_⟩
  exact
    { prng := rfl
      cipher := rfl
      sub := congrArg subOpen hcsize
      csize := hcsize
      dsize := hdsize
      chk := rfl
      copied := rfl
      scratch := rfl
      seq := rfl
      unread := h.advance
      session := by
        rw [sessionOf_hostReturn, sessionOf_hostReturn, Session.read_read]
        exact congrArg₂ (fun c d => (sessionOf s).read [c, d]) hcsize hdsize }

/-- The state in which `RD_PULL` has answered these bytes of the entry opened in `s₀`, and `left` is unread. -/
structure BytesPulled (s₀ : State) (done left : List Byte) (s : State) : Prop where
  stream : StreamOver s₀.prng done s.prng s.cipher
  sub : s.sub = { s₀.sub with cnt := BitVec.ofNat 32 done.length }
  unread : Unread s.ports left
  entry : s.entry = s₀.entry
  scratch : s.scratch = s₀.scratch
  seq : s.seq = .rInEntry
  session : sessionOf s = (sessionOf s₀).read (done.flatMap fun c => [c.setWidth 32, 0x00000000#32])

theorem BytesPulled.start {p : Prng} {v : Session} {e : EntryData} {rest : List Byte} {s : State}
    (h : EntryOpened p v e rest s) : BytesPulled s [] (keyedFrom s.prng 0 e.packed ++ rest) s :=
  { stream := h.cipher ▸ .start s.prng 0#1
    sub := by rw [h.sub]; rfl
    unread := by rw [keyedFrom_zero, h.prng]; exact h.unread
    entry := rfl
    scratch := rfl
    seq := h.seq
    session := (Session.read_nil _).symm }

/-- The bytes pulled so far are the count of the sub-range. -/
theorem BytesPulled.cnt {s₀ s : State} {done left : List Byte} (h : BytesPulled s₀ done left s)
    (hlen : done.length ≤ 0xFFFFFFFF) : s.sub.cnt.toNat = done.length := by
  rw [h.sub]
  exact toNat_ofNat_of_le hlen (by decide)

theorem BytesPulled.pull {s₀ s : State} {done left : List Byte} {b : Byte}
    (h : BytesPulled s₀ done ((b ^^^ streamKey s₀.prng done.length) :: left) s)
    (hlen : done.length < s₀.sub.n.toNat) :
    ∃ t, Runs [.cmd .rdPull, .rd .res0, .rd .res1] s t ∧ BytesPulled s₀ (done ++ [b]) left t := by
  have hsmall : done.length < 2 ^ 32 := hlen.trans s₀.sub.n.isLt
  have hpos : s.cipher.pos.toNat < 2 ^ 64 - 1 := by
    rw [h.stream.count.pos]
    omega
  have hne : s.sub.cnt ≠ s.sub.n := by
    rw [Ne, ← BitVec.toNat_inj, h.cnt (by omega), h.sub]
    exact hlen.ne
  have hplain : b ^^^ streamKey s₀.prng done.length ^^^ s.keyByte = b := by
    rw [h.stream.count.keyByte, xor_xor_self]
  have hpull : Runs [.cmd .rdPull] s (bytePulled b (s.setErr none)) := by
    refine runs_cmd fun es => ?_
    have hexec := exec_rdPull_byte (s := s.setEvents es) h.seq hne h.unread.getElem?_inPos hpos
    have hplain' : b ^^^ streamKey s₀.prng done.length ^^^ (s.setEvents es).keyByte = b := hplain
    rw [hplain'] at hexec
    exact hexec
  refine ⟨_, hpull.cons ((runs_rd (by decide) _).cons (runs_rd (by decide) _)), ?_⟩
  exact
    { stream := h.stream.afterByte (by omega) b
      sub := by
        rw [List.length_append, List.length_singleton, BitVec.ofNat_add]
        exact congrArg (fun u : SubRange => { u with cnt := u.cnt + 1 }) h.sub
      unread := Unread.advance (as := [_]) h.unread
      entry := h.entry
      scratch := h.scratch
      seq := h.seq
      session := by
        refine (Session.read_read (sessionOf s) [b.setWidth 32] [0x00000000#32]).trans ?_
        rw [h.session, Session.read_read, List.flatMap_append]
        rfl }

theorem BytesPulled.pullAll {s₀ s : State} {done : List Byte} {rest : List Byte} (todo : List Byte)
    (h : BytesPulled s₀ done (keyedFrom s₀.prng done.length todo ++ rest) s)
    (hlen : (done ++ todo).length ≤ s₀.sub.n.toNat) :
    ∃ t, Runs (todo.flatMap fun _ => [.cmd .rdPull, .rd .res0, .rd .res1]) s t ∧
      BytesPulled s₀ (done ++ todo) rest t := by
  induction todo generalizing done s with
  | nil => exact ⟨s, .nil s, by rwa [List.append_nil]⟩
  | cons b todo ih =>
    rw [keyedFrom_cons] at h
    obtain ⟨t, hrun, ht⟩ := h.pull (by simp at hlen; omega)
    rw [List.append_cons] at hlen ⊢
    obtain ⟨u, hrest, hu⟩ := ih (by simpa using ht) hlen
    exact ⟨u, hrun.append hrest, hu⟩

/-- The last `RD_PULL`, at the end of the sub-range (R65, R82). -/
theorem BytesPulled.runs_eod {s₀ s : State} {done left : List Byte} (h : BytesPulled s₀ done left s)
    (hlen : s₀.sub.n = BitVec.ofNat 32 done.length) :
    Runs [.cmd .rdPull, .rd .res1] s (hostReturn 0x00000001#32 (s.answered 0x00000000#32 0x00000001#32)) := by
  have hend : s.sub.cnt = s.sub.n := by
    rw [h.sub, hlen]
  have hpull : Runs [.cmd .rdPull] s (s.answered 0x00000000#32 0x00000001#32) :=
    runs_cmd fun es => exec_rdPull_eod (s := s.setEvents es) h.seq (.inl hend)
  exact hpull.cons (runs_rd (by decide) _)

/-- The reader has pulled the whole payload of `e` and the `EOD` behind it, and has yet to copy the text. -/
structure EntryPulled (p : Prng) (v : Session) (e : EntryData) (rest : List Byte) (s : State) : Prop where
  prng : s.prng = entryPrng p e
  ck : s.cipher.ck = s.entry.chk
  cnt : s.sub.cnt = s.entry.csize
  chk : s.entry.chk = entryChecksum p e
  dsize : s.entry.dsize = BitVec.ofNat 32 e.text.length
  copied : s.entry.copied = 0
  scratch : s.scratch = []
  seq : s.seq = .rInEntry
  unread : Unread s.ports rest
  session : sessionOf s = v.read ([BitVec.ofNat 32 e.packed.length, BitVec.ofNat 32 e.text.length] ++
    e.packed.flatMap (fun c => [c.setWidth 32, 0x00000000#32]) ++ [0x00000001#32])

theorem EntryOpened.pullAll {p : Prng} {v : Session} {e : EntryData} {rest : List Byte} {s : State}
    (h : EntryOpened p v e rest s) (hlen : e.packed.length ≤ 0xFFFFFFFF) :
    ∃ t, Runs (e.packed.flatMap (fun _ => [.cmd .rdPull, .rd .res0, .rd .res1]) ++ [.cmd .rdPull, .rd .res1]) s t ∧
      EntryPulled p v e rest t := by
  have hn : s.sub.n = BitVec.ofNat 32 e.packed.length := congrArg SubRange.n h.sub
  have hfits : ([] ++ e.packed).length ≤ s.sub.n.toNat := by
    rw [hn, toNat_ofNat_of_le hlen (by decide)]
    rfl
  obtain ⟨t, hpull, ht⟩ := (BytesPulled.start h).pullAll e.packed hfits
  rw [List.nil_append] at ht
  refine ⟨_, hpull.append (ht.runs_eod hn), ?_⟩
  exact
    { prng := by
        refine ht.stream.count.prng.trans ?_
        rw [h.prng, entryPrng]
      ck := by
        refine ht.stream.ck.trans (Eq.trans ?_ (congrArg Entry.chk ht.entry).symm)
        rw [h.chk, h.prng, entryChecksum]
      cnt := by
        refine (congrArg SubRange.cnt ht.sub).trans (Eq.trans ?_ (congrArg Entry.csize ht.entry).symm)
        exact h.csize.symm
      chk := (congrArg Entry.chk ht.entry).trans h.chk
      dsize := (congrArg Entry.dsize ht.entry).trans h.dsize
      copied := (congrArg Entry.copied ht.entry).trans h.copied
      scratch := ht.scratch.trans h.scratch
      seq := ht.seq
      unread := ht.unread
      session := by
        rw [← Session.read_read, ← Session.read_read, ← h.session, ← ht.session]
        rfl }

/-- The state in which `RD_PUT` has copied these bytes since `s₀`: they are in `SCRATCH` or on `OUT`, and `left`
is unread. -/
structure BytesCopied (s₀ : State) (done left : List Byte) (s : State) : Prop where
  entry : s.entry = { s₀.entry with copied := BitVec.ofNat 32 done.length }
  scratch : s.scratch = if s₀.entry.bufLatched then done else []
  session : sessionOf s = (sessionOf s₀).write (if s₀.entry.bufLatched then [] else done)
  unread : Unread s.ports left
  prng : s.prng = s₀.prng
  cipher : s.cipher = s₀.cipher
  sub : s.sub = s₀.sub
  seq : s.seq = .rInEntry

theorem BytesCopied.start {s : State} {left : List Byte} (hq : s.seq = .rInEntry) (hcopied : s.entry.copied = 0)
    (hscratch : s.scratch = []) (hunread : Unread s.ports left) : BytesCopied s [] left s :=
  { entry := congrArg (fun c => { s.entry with copied := c }) hcopied
    scratch := by rw [hscratch, ite_self]
    session := by rw [ite_self, Session.write_nil]
    unread := hunread
    prng := rfl
    cipher := rfl
    sub := rfl
    seq := hq }

/-- A byte within `E_DSIZE` is counted, and goes to `SCRATCH` or to `OUT` (R83). -/
theorem exec_rdPut_copied {s : State} (hq : s.seq = .rInEntry) (hlt : s.entry.copied.toNat < s.entry.dsize.toNat)
    (hroom : ∀ cap, s.scratchCap = some cap → s.scratch.length < cap) :
    exec .rdPut s = .next { s.accepted with
      scratch := s.scratch ++ if s.entry.bufLatched then [s.regs.arg0.setWidth 8] else []
      ports := { s.ports with out := s.ports.out ++ if s.entry.bufLatched then [] else [s.regs.arg0.setWidth 8] }
      entry := { s.entry with copied := s.entry.copied + 1 } } := by
  cases hb : s.entry.bufLatched with
  | false =>
    rw [exec_rdPut_unbuffered hq hlt hb, if_neg (by decide), if_neg (by decide), List.append_nil]
    rfl
  | true =>
    rw [exec_rdPut_buffered hq hlt hb hroom, if_pos rfl, if_pos rfl, List.append_nil]
    rfl

theorem ite_append_ite (c : Bool) (as bs cs ds : List Byte) :
    (if c then as else bs) ++ (if c then cs else ds) = if c then as ++ cs else bs ++ ds := by
  cases c <;> rfl

theorem BytesCopied.put {s₀ s : State} {done left : List Byte} (h : BytesCopied s₀ done left s) (b : Byte)
    (hlen : done.length < s₀.entry.dsize.toNat) (hroom : ∀ cap, s₀.scratchCap = some cap → done.length < cap) :
    ∃ t, Runs [.cmdArg .rdPut b.toNat] s t ∧ BytesCopied s₀ (done ++ [b]) left t := by
  have hsmall : done.length < 2 ^ 32 := hlen.trans s₀.entry.dsize.isLt
  have hlt : s.entry.copied.toNat < s.entry.dsize.toNat := by
    rw [h.entry]
    exact (toNat_ofNat_of_le (Nat.le_of_lt_succ hsmall) (by decide)).trans_lt hlen
  have hentry : { s.entry with copied := s.entry.copied + 1 } =
      { s₀.entry with copied := BitVec.ofNat 32 (done ++ [b]).length } := by
    rw [h.entry, List.length_append, List.length_singleton, BitVec.ofNat_add]
    rfl
  have hbuf : s.entry.bufLatched = s₀.entry.bufLatched := by rw [h.entry]
  have hbyte : (b.setWidth 32).setWidth 8 = b := setWidth_setWidth_of_narrow (by decide) b
  have hfree (cap : Nat) (hcap : s.scratchCap = some cap) : s.scratch.length < cap := by
    have hle : s.scratch.length ≤ done.length := by
      rw [h.scratch]
      cases s₀.entry.bufLatched <;> simp
    have hkept : s.scratchCap = s₀.scratchCap := congrArg Session.cap h.session
    exact hle.trans_lt (hroom cap (hkept ▸ hcap))
  refine ⟨{ (s.setRegs { s.regs with arg0 := b.setWidth 32 }).accepted with
      scratch := s.scratch ++ if s.entry.bufLatched then [b] else []
      ports := { s.ports with out := s.ports.out ++ if s.entry.bufLatched then [] else [b] }
      entry := { s.entry with copied := s.entry.copied + 1 } }, runs_cmdArg_byte fun es => ?_, ?_⟩
  · have hexec := exec_rdPut_copied
      (s := (s.setRegs { s.regs with arg0 := b.setWidth 32 }).setEvents es) h.seq hlt hfree
    simp only [State.setEvents_regs, State.setRegs_regs, hbyte] at hexec
    exact hexec
  · exact
      { entry := hentry
        scratch := by
          simp only [h.scratch, hbuf, ite_append_ite, List.append_nil]
        session := by
          have hwrite := ite_append_ite s₀.entry.bufLatched [] done [] [b]
          rw [List.append_nil] at hwrite
          rw [← hwrite, ← Session.write_write, ← h.session, ← hbuf]
          rfl
        unread := h.unread.write _
        prng := h.prng
        cipher := h.cipher
        sub := h.sub
        seq := h.seq }

theorem BytesCopied.putAll {s₀ s : State} {done left : List Byte} (todo : List Byte)
    (h : BytesCopied s₀ done left s)
    (hlen : (done ++ todo).length ≤ s₀.entry.dsize.toNat)
    (hroom : ∀ cap, s₀.scratchCap = some cap → (done ++ todo).length ≤ cap) :
    ∃ t, Runs (todo.map fun b => .cmdArg .rdPut b.toNat) s t ∧ BytesCopied s₀ (done ++ todo) left t := by
  induction todo generalizing done s with
  | nil => exact ⟨s, .nil s, by rwa [List.append_nil]⟩
  | cons b todo ih =>
    have hshort : done.length < (done ++ b :: todo).length := by simp
    obtain ⟨t, hrun, ht⟩ := h.put b (by omega) fun cap hcap => Nat.lt_of_lt_of_le hshort (hroom cap hcap)
    rw [List.append_cons] at hlen hroom ⊢
    obtain ⟨u, hrest, hu⟩ := ih ht hlen hroom
    exact ⟨u, hrun.cons hrest, hu⟩

/-- The state of an entry finished without an error, its bytes committed (R84). -/
def entryCommitted (s : State) : State :=
  { s.answered s.entry.copied s.cipher.ck with
    scratch := []
    seq := .rEntries
    ports := { s.ports with out := s.ports.out ++ if s.entry.bufLatched then s.scratch else [] } }

theorem runs_rdFinish {s : State} (hq : s.seq = .rInEntry) (he : finishError s = none) :
    Runs [.cmd .rdFinish] s (entryCommitted s) :=
  runs_cmd fun es => exec_rdFinish_committed (s := s.setEvents es) hq he

/-- The checks pass whatever `CONFIG` is when sizes and checksum are those of the header (R84, R89). -/
theorem BytesCopied.finishError_eq_none {s₀ s : State} {done left : List Byte} (h : BytesCopied s₀ done left s)
    (hsize : s₀.entry.dsize = BitVec.ofNat 32 done.length) (hcnt : s₀.sub.cnt = s₀.entry.csize)
    (hck : s₀.cipher.ck = s₀.entry.chk) : finishError s = none := by
  refine finishError_of_good (fun hl => hl.2.elim ?_ ?_) fun hc => hc.2 ?_
  · rw [h.entry]
    exact fun hne => hne hsize.symm
  · rw [h.entry, h.sub]
    exact fun hne => hne hcnt
  · rw [h.entry, h.cipher]
    exact hck

theorem BytesCopied.finish {s₀ s : State} {done left : List Byte} (h : BytesCopied s₀ done left s)
    (hsize : s₀.entry.dsize = BitVec.ofNat 32 done.length) (hcnt : s₀.sub.cnt = s₀.entry.csize)
    (hck : s₀.cipher.ck = s₀.entry.chk) :
    ∃ t, Runs [.cmd .rdFinish, .rd .res1] s t ∧ t.seq = .rEntries ∧ t.prng = s₀.prng ∧
      Unread t.ports left ∧ sessionOf t = ((sessionOf s₀).write done).read [s₀.entry.chk] := by
  have hread : regValue .res1 (entryCommitted s) = s₀.entry.chk := (congrArg Cipher.ck h.cipher).trans hck
  have hbuf : s.entry.bufLatched = s₀.entry.bufLatched := by rw [h.entry]
  have hcommit : sessionOf (entryCommitted s) =
      (sessionOf s).write (if s.entry.bufLatched then s.scratch else []) := rfl
  refine ⟨_, (runs_rdFinish h.seq (h.finishError_eq_none hsize hcnt hck)).cons (runs_rd (by decide) _), rfl, h.prng,
    h.unread.write _, ?_⟩
  rw [sessionOf_hostReturn, hread, hcommit, h.session, Session.write_write, hbuf, h.scratch, ite_append_ite]
  cases s₀.entry.bufLatched <;> simp

/-- The reader between entries, with the bytes that are left of `IN`. -/
structure ReaderAt (p : Prng) (v : Session) (rest : List Byte) (s : State) : Prop where
  seq : s.seq = .rHdr ∨ s.seq = .rEntries
  prng : s.prng = p
  session : sessionOf s = v
  unread : Unread s.ports rest

theorem EntryPulled.finish {p : Prng} {v : Session} {e : EntryData} {rest : List Byte} {s : State}
    (h : EntryPulled p v e rest s) (hlen : e.text.length ≤ 0xFFFFFFFF)
    (hroom : ∀ cap, v.cap = some cap → e.text.length ≤ cap) :
    ∃ t, Runs (e.text.map (fun d => .cmdArg .rdPut d.toNat) ++ [.cmd .rdFinish, .rd .res1]) s t ∧
      ReaderAt (entryPrng p e) ((v.write e.text).read (entryReads e (entryChecksum p e))) rest t := by
  have hfits : ([] ++ e.text).length ≤ s.entry.dsize.toNat := by
    rw [h.dsize, toNat_ofNat_of_le hlen (by decide)]
    rfl
  have hcap : s.scratchCap = v.cap := congrArg Session.cap h.session
  obtain ⟨t, hput, ht⟩ := (BytesCopied.start h.seq h.copied h.scratch h.unread).putAll e.text hfits (hcap ▸ hroom)
  rw [List.nil_append] at ht
  obtain ⟨u, hfinish, hq, hprng, hunread, hsession⟩ := ht.finish h.dsize h.cnt h.ck
  refine ⟨u, hput.append hfinish, .inr hq, hprng.trans h.prng, ?_, hunread⟩
  rw [hsession, h.session, h.chk, Session.read_write, Session.read_read, entryReads]

/-- One entry read: what the host reads is what it gave the writer, and the text is on `OUT` (R89, R96). -/
theorem ReaderAt.runs_readEntry {p : Prng} {v : Session} {s : State} {e : EntryData} {rest : List Byte}
    (h : ReaderAt p v (entryBytes p e ++ rest) s) (hpacked : e.packed.length ≤ 0xFFFFFFFF)
    (htext : e.text.length ≤ 0xFFFFFFFF) (hroom : ∀ cap, v.cap = some cap → e.text.length ≤ cap) :
    ∃ t, Runs (readEntry e) s t ∧
      ReaderAt (entryPrng p e) ((v.write e.text).read (entryReads e (entryChecksum p e))) rest t := by
  obtain ⟨hq, rfl, rfl, hunread⟩ := h
  obtain ⟨t, hopen, ht⟩ := runs_openEntry (by simpa using hq) hunread
  obtain ⟨u, hpull, hu⟩ := ht.pullAll hpacked
  obtain ⟨x, hfinish, hx⟩ := hu.finish htext hroom
  refine ⟨x, ?_, hx⟩
  have hrun := (hopen.append hpull).append hfinish
  simpa only [readEntry, List.append_assoc] using hrun

/-! ### Reading a container -/

theorem ReaderAt.runs_readEntries {p : Prng} {v : Session} {s : State} (es : List EntryData)
    (h : ReaderAt p v (entriesBytes p es) s)
    (hlen : ∀ e ∈ es, e.packed.length ≤ 0xFFFFFFFF ∧ e.text.length ≤ 0xFFFFFFFF)
    (hroom : ∀ cap, v.cap = some cap → ∀ e ∈ es, e.text.length ≤ cap) :
    ∃ t, Runs (es.flatMap readEntry) s t ∧
      ReaderAt (entriesPrng p es) ((v.write (es.flatMap EntryData.text)).read
        (List.zipWith entryReads es (entriesChecksums p es)).flatten) [] t := by
  induction es generalizing p v s with
  | nil => exact ⟨s, .nil s, by rwa [List.flatMap_nil, Session.write_nil, List.zipWith_nil_left, List.flatten_nil,
      Session.read_nil]⟩
  | cons e es ih =>
    obtain ⟨⟨hpacked, htext⟩, hlen⟩ := List.forall_mem_cons.1 hlen
    obtain ⟨t, hrun, ht⟩ := h.runs_readEntry hpacked htext fun cap hcap => hroom cap hcap e List.mem_cons_self
    obtain ⟨u, hrest, hu⟩ := ih ht hlen fun cap hcap e' he' => hroom cap hcap e' (List.mem_cons_of_mem _ he')
    refine ⟨u, hrun.append hrest, ?_⟩
    rwa [Session.read_write, Session.write_write, Session.read_read] at hu

/-- `RD_OPEN` with the writer's key finds its own checksum, whatever `CONFIG` is (R79, R89). -/
theorem runs_rdOpen {s : State} (hq : s.seq = .idle) {key seed : Word} {rest : List Byte}
    (h : Unread s.ports (globalHeaderBytes (containerStart key seed).1 seed ++ rest)) :
    ∃ t, Runs [.cmdArg .rdOpen key.toNat] s t ∧ ReaderAt (containerStart key seed).2 (sessionOf s) rest t := by
  refine ⟨(headerRead (containerStart key seed).1 seed (s.setRegs { s.regs with arg0 := key })).setSeq .rHdr,
    runs_cmdArg_word fun es => ?_, .inl rfl, rfl, rfl, h.advance⟩
  exact exec_rdOpen_accepted (s := (s.setRegs { s.regs with arg0 := key }).setEvents es) hq h.bytes (.inl rfl)

theorem runs_rdHasnext_exhausted {s : State} (hq : s.seq = .rHdr ∨ s.seq = .rEntries) (h : Unread s.ports []) :
    Runs [.cmd .rdHasnext] s { s.answered 0x00000000#32 0x00000000#32 with seq := .rExhausted } :=
  runs_cmd fun es => exec_rdHasnext_exhausted (s := s.setEvents es) hq h.length.ge

/-- A reader run over a container (R89). -/
theorem runs_readContainer {s : State} (hq : s.seq = .idle) (key seed : Word) {es : List EntryData}
    (h : Unread s.ports (containerBytes key seed es))
    (hlen : ∀ e ∈ es, e.packed.length ≤ 0xFFFFFFFF ∧ e.text.length ≤ 0xFFFFFFFF)
    (hroom : ∀ cap, s.scratchCap = some cap → ∀ e ∈ es, e.text.length ≤ cap) :
    ∃ t, Runs (readContainer key es) s t ∧ t.seq = .rExhausted ∧
      t.prng = entriesPrng (containerStart key seed).2 es ∧ Unread t.ports [] ∧
      sessionOf t = ((sessionOf s).write (es.flatMap EntryData.text)).read
        ((List.zipWith entryReads es (entriesChecksums (containerStart key seed).2 es)).flatten ++
          [0x00000000#32]) := by
  obtain ⟨t, hopen, ht⟩ := runs_rdOpen hq h
  obtain ⟨u, hread, hu⟩ := ht.runs_readEntries es hlen hroom
  have hend := (runs_rdHasnext_exhausted hu.seq hu.unread).cons (runs_rd (r := .res0) (by decide) _)
  refine ⟨_, (hopen.cons hread).append hend, rfl, hu.prng, hu.unread, ?_⟩
  rw [← Session.read_read, ← hu.session]
  rfl

/-- Settles O50: the writer's run leaves `containerBytes` on `OUT`, and the reader's run takes them apart again. -/
theorem readerRecoversWhatTheWriterWrote : Obligations.ReaderRecoversWhatTheWriterWrote := by
  intro w0 r0 key seed es hne hlen hwq hwroom hwout hwreads hwsticky hrq hrroom hrpos hrreads hrsticky
  obtain ⟨w, hwrite, hwprng, hw⟩ := runs_writeContainer hwq key seed hne hlen hwroom
  refine ⟨w.setEvents [], entriesChecksums (containerStart key seed).2 es, hwrite.runProgram_eq, ?_,
    length_entriesChecksums _ es, (congrArg Session.sticky hw).trans hwsticky, fun hinput => ?_⟩
  · refine (congrArg Session.reads hw).trans ?_
    simp [Session.read, Session.write, sessionOf, hwreads]
  · have hout : w.ports.out = containerBytes key seed es := by
      refine (congrArg Session.out hw).trans ?_
      simp [Session.read, Session.write, sessionOf, hwout]
    have hunread : Unread r0.ports (containerBytes key seed es) := by
      rw [← hout]
      exact ⟨by rw [hrpos, List.drop_zero, hinput]; rfl, by rw [hrpos, Nat.zero_add, hinput]; rfl⟩
    obtain ⟨r, hread, hq, hrprng, hleft, hr⟩ := runs_readContainer hrq key seed hunread hlen hrroom
    refine ⟨r.setEvents [], hread.runProgram_eq, ?_, (congrArg Session.sticky hr).trans hrsticky, hq,
      hrprng.trans hwprng.symm, hleft.length, congrArg Session.out hr⟩
    refine (congrArg Session.reads hr).trans ?_
    simp [Session.read, Session.write, sessionOf, hrreads]

end Sys2Proof.Proofs

namespace Sys2Proof.Proofs

open Sys2Proof.Machine

/-! ### `WR_OPEN` -/

/-- Settles O22: refused outside `IDLE`, and there `exec_wrOpen` is the whole state after. -/
theorem wrOpenSeedsAndEmitsNothing : Obligations.WrOpenSeedsAndEmitsNothing :=
  fun _ => ⟨fun hq => exec_of_illegal (mt legal_wrOpen.1 hq), exec_wrOpen⟩

/-! ### Big-endian words as single bytes -/

/-- The four bytes a word goes out as, the first the most significant (R33). -/
theorem exists_bytesBE32 (v : Word) :
    ∃ b0 b1 b2 b3 : Byte, b0 ++ b1 ++ b2 ++ b3 = v ∧ bytesBE32 v = [b0, b1, b2, b3] :=
  ⟨_, _, _, _, (be32_eq_append _ _ _ _).symm.trans (be32_extractLsb' v), rfl⟩

/-! ### `WR_BEGIN` -/

/-- The draws of the global header, none once it is out (R59, R91). -/
def headerDraws (h : Header) : Nat := if h.hdrDone then 0 else h.keyR.toNat % 31 + 5

theorem headerDraws_of_done {h : Header} (hdone : h.hdrDone = true) : headerDraws h = 0 := if_pos hdone

theorem headerDraws_of_pending {h : Header} (hpend : h.hdrDone = false) : headerDraws h = h.keyR.toNat % 31 + 5 :=
  if_neg (Bool.eq_false_iff.1 hpend)

/-- The state in which the global header has just been written (R91). -/
theorem emitHeader_of_pending {s : State} (hpend : s.hdr.hdrDone = false) :
    emitHeader s = { s with
      prng := prngAfter (headerDraws s.hdr) s.prng
      hdr := { s.hdr with hdrChk := xorOfDraws (headerDraws s.hdr) s.prng, hdrSeed := s.hdr.seedR, hdrDone := true }
      ports := outWrite (globalHeaderBytes (xorOfDraws (headerDraws s.hdr) s.prng) s.hdr.seedR) s.ports } := by
  rw [emitHeader, if_neg (Bool.eq_false_iff.1 hpend), keyChecksum_spec, headerDraws_of_pending hpend]
  rfl

theorem emitHeader_prng (s : State) : (emitHeader s).prng = prngAfter (headerDraws s.hdr) s.prng := by
  cases hdone : s.hdr.hdrDone with
  | true => rw [emitHeader_of_done hdone, headerDraws_of_done hdone, prngAfter_zero]
  | false => rw [emitHeader_of_pending hdone]

/-- Settles O23: `entryBegun` draws the two masks, over a state that is unchanged if the header is out, and else the one
of `emitHeader_of_pending`, whose 8 bytes are two big-endian words. -/
theorem wrBeginEmitsHeaderOnceAndDrawsMasks : Obligations.WrBeginEmitsHeaderOnceAndDrawsMasks := by
  refine fun s => ⟨fun hq => exec_of_illegal (mt legal_wrBegin.1 hq), fun hq => ?_⟩
  intro n p kc m1 m2 begun
  have hmasks : prngAfter (n + 2) s.prng = prngAfter 2 p := prngAfter_add n 2 s.prng
  refine ⟨fun hdone => ?_, fun hpend => ?_⟩
  · have hp : p = s.prng := congrArg (prngAfter · s.prng) (headerDraws_of_done hdone)
    rw [exec_wrBegin hq, emitHeader_of_done (s := s.setErr none) hdone]
    simp only [begun, m1, m2, hmasks, hp]
    rfl
  · obtain ⟨b0, b1, b2, b3, hkc, hchk⟩ := exists_bytesBE32 kc
    obtain ⟨b4, b5, b6, b7, hseedR, hseed⟩ := exists_bytesBE32 s.hdr.seedR
    have hheader : globalHeaderBytes kc s.hdr.seedR = [b0, b1, b2, b3, b4, b5, b6, b7] := by
      rw [globalHeaderBytes, hchk, hseed]
      rfl
    refine ⟨b0, b1, b2, b3, b4, b5, b6, b7, hkc, hseedR, ?_⟩
    rw [exec_wrBegin hq, emitHeader_of_pending (s := s.setErr none) hpend, ← hheader]
    simp only [begun, hmasks]
    rfl

/-! ### `WR_PUSH` -/

/-- A push that finds the end of `POS`, of `CLEN` or of `SCRATCH` has no step (R22, R73, R92; I3). -/
theorem exec_wrPush_stuck {s : State} (hq : s.seq = .wInEntry)
    (hstuck : s.cipher.pos = BitVec.allOnes 64 ∨ s.entry.clen = BitVec.allOnes 64 ∨
      ∃ cap, s.scratchCap = some cap ∧ cap ≤ s.scratch.length) :
    ∃ f ∈ commandFaults, exec .wrPush s = .fault f := by
  rw [exec_of_legal (legal_wrPush.2 hq), ruleOf]
  rcases wrPushRule_cases (s.setErr none) with ⟨out, q, c, henc, hroom, hclen, _⟩ | ⟨_, f, hfault⟩
  · rcases hstuck with hpos | hend | ⟨cap, hcap, hfull⟩
    · cases henc.symm.trans ((encryptByte_eq_none _ (s.setErr none)).2 hpos)
    · exact absurd hend hclen
    · exact absurd (hroom cap hcap) (Nat.not_lt.2 hfull)
  · exact ⟨f, wrPushRule_fault hfault, hfault⟩

/-- Settles O24: refused outside an entry, else one encrypted byte or one of the three stuck ends. -/
theorem wrPushEncryptsIntoScratch : Obligations.WrPushEncryptsIntoScratch := by
  intro s plain cipherByte
  refine ⟨fun hq => exec_of_illegal (mt legal_wrPush.1 hq), exec_wrPush_byte, fun hq hstuck => ?_⟩
  rw [← pos_eq_allOnes, ← pos_eq_allOnes] at hstuck
  obtain ⟨f, hf, hfault⟩ := exec_wrPush_stuck hq hstuck
  exact ⟨f, by revert hf; cases f <;> decide, hfault⟩

/-! ### `WR_END` -/

/-- The 64-bit operand as a number, `ARG1` high (R46). -/
theorem argSize_toNat (s : State) : (argSize s).toNat = s.regs.arg1.toNat * 2 ^ 32 + s.regs.arg0.toNat := by
  rw [argSize, BitVec.toNat_append, ← Nat.shiftLeft_add_eq_or_of_lt s.regs.arg0.isLt, Nat.shiftLeft_eq]

theorem lo32_eq_of_toNat_eq {v : DWord} {n : Nat} (hv : v.toNat = n) : lo32 v = BitVec.ofNat 32 n := by
  rw [← lo32_ofNat, ← hv, BitVec.ofNat_toNat, BitVec.setWidth_eq]

theorem exec_wrEnd_overflow {s : State} (hq : s.seq = .wInEntry)
    (hover : 0xFFFFFFFF < s.entry.clen.toNat ∨ 0xFFFFFFFF < (argSize s).toNat) :
    exec .wrEnd s = .next (State.errored { s with scratch := [], seq := .fault } .sizeOverflow 0x00000010#32) := by
  rw [exec_of_legal (legal_wrEnd.2 hq)]
  exact if_pos hover

/-- Settles O25: the two sizes decide between the overflow and `entryEnded`, whose header is three big-endian words. -/
theorem wrEndEmitsTheEntry : Obligations.WrEndEmitsTheEntry := by
  intro s ds
  have hds : (argSize s).toNat = ds := argSize_toNat s
  refine ⟨fun hq => exec_of_illegal (mt legal_wrEnd.1 hq), fun hq hover => ?_, fun hq hclen hsize => ?_⟩
  · exact exec_wrEnd_overflow hq (hds ▸ hover)
  · obtain ⟨b0, b1, b2, b3, hcsize, hb0⟩ := exists_bytesBE32 (BitVec.ofNat 32 s.entry.clen.toNat ^^^ s.entry.mask1)
    obtain ⟨b4, b5, b6, b7, hdsize, hb4⟩ := exists_bytesBE32 (BitVec.ofNat 32 ds ^^^ s.entry.mask2)
    obtain ⟨b8, b9, b10, b11, hck, hb8⟩ := exists_bytesBE32 s.cipher.ck
    have hheader : entryHeaderBytes (BitVec.ofNat 32 s.entry.clen.toNat) (BitVec.ofNat 32 ds) s.entry.mask1
        s.entry.mask2 s.cipher.ck = [b0, b1, b2, b3, b4, b5, b6, b7, b8, b9, b10, b11] := by
      rw [entryHeaderBytes, hb0, hb4, hb8]
      rfl
    have hlo : lo32 (argSize (s.setErr none)) = BitVec.ofNat 32 ds := lo32_eq_of_toNat_eq hds
    refine ⟨b0, b1, b2, b3, b4, b5, b6, b7, b8, b9, b10, b11, hcsize, hdsize, hck, ?_⟩
    rw [exec_wrEnd_fits hq hclen (hds ▸ hsize), List.append_assoc, ← hheader, entryEnded, hlo, State.setErr_entry,
      lo32_eq_of_toNat_eq (v := s.entry.clen) rfl]
    rfl

/-! ### The draws and the bytes of an entry -/

theorem length_emitHeader_out (s : State) :
    (emitHeader s).ports.out.length = s.ports.out.length + if s.hdr.hdrDone then 0 else 8 := by
  cases hdone : s.hdr.hdrDone with
  | true => simp [emitHeader_of_done hdone]
  | false => simp [emitHeader_of_pending hdone, outWrite]

theorem emitHeader_scratchCap (s : State) : (emitHeader s).scratchCap = s.scratchCap := by
  cases hdone : s.hdr.hdrDone with
  | true => rw [emitHeader_of_done hdone]
  | false => rw [emitHeader_of_pending hdone]

theorem length_entryBytes (p : Prng) (e : EntryData) : (entryBytes p e).length = 12 + e.packed.length := by
  simp [entryBytes]

/-- The two masks, then the stream of the payload (R94). -/
theorem entryPrng_eq (p : Prng) (e : EntryData) :
    entryPrng p e = prngAfter (if e.packed.length = 0 then 2 else e.packed.length + 3) p := by
  rw [entryPrng, ← prngAfter_add, streamDraws]
  congr 1
  split <;> omega

/-- An entry written from between entries: what the global header left, then the entry's own draws and bytes, and the
writer is between entries again. -/
theorem runs_writeEntry {s : State} (hq : s.seq ∈ [.wPending, .wEntries]) {e : EntryData}
    (hlen : e.packed.length ≤ 0xFFFFFFFF) (htext : e.text.length ≤ 0xFFFFFFFF)
    (hroom : ∀ cap, s.scratchCap = some cap → e.packed.length ≤ cap) :
    ∃ t, Runs (writeEntry e) s t ∧ t.seq = .wEntries ∧ t.prng = entryPrng (emitHeader s).prng e ∧
      t.ports.out = (emitHeader s).ports.out ++ entryBytes (emitHeader s).prng e := by
  have hcap : (begunFrom s).scratchCap = s.scratchCap := emitHeader_scratchCap s
  obtain ⟨t, hpush, ht⟩ := (BytesPushed.start s).pushAll e.packed hlen fun cap h => hroom cap (hcap ▸ h)
  obtain ⟨u, hend, hq', _, hprng, hsession⟩ := ht.finish hlen htext
  rw [begunFrom_prng] at hprng
  rw [begunFrom_prng, begunFrom_mask1, begunFrom_mask2, sessionOf_begunFrom] at hsession
  exact ⟨u, (runs_wrBegin hq).cons (hpush.append hend), hq', hprng, congrArg Session.out hsession⟩

/-- Settles O49: the draws of the header and of the entry follow each other, and so do their bytes. -/
theorem writerDrawsAndBytesPerEntry : Obligations.WriterDrawsAndBytesPerEntry := by
  intro s e hq hroom hlen htext hDraws hBytes eDraws
  obtain ⟨t, hrun, hq', hprng, hout⟩ := runs_writeEntry hq hlen htext hroom
  refine ⟨t.setEvents [], hrun.runProgram_eq, hq', ?_, ?_⟩
  · calc t.prng = prngAfter eDraws (emitHeader s).prng := by rw [hprng, entryPrng_eq]
      _ = prngAfter (hDraws + eDraws) s.prng := by rw [emitHeader_prng, ← prngAfter_add]; rfl
  · calc t.ports.out.length = (emitHeader s).ports.out.length + (12 + e.packed.length) := by
          rw [hout, List.length_append, length_entryBytes]
      _ = s.ports.out.length + hBytes + 12 + e.packed.length := by rw [length_emitHeader_out, ← Nat.add_assoc]

/-! ### A pending writer -/

/-- `FAULT` admits the commands that need no container, which are legal in every `SEQ` value; a pending writer admits
`WR_BEGIN` besides (R48). -/
theorem legal_wPending_iff (i : Instr) : legal i .wPending = true ↔ legal i .fault = true ∨ i = .wrBegin := by
  cases i <;> decide

/-- A command that needs no container does not move `SEQ`, unless it is `CORE_RESET`. -/
theorem ruleOf_seq_of_legal_fault {i : Instr} (hl : legal i .fault = true) (hi : i ≠ .coreReset) (s : State) :
    Ensures (fun t => t.seq = s.seq) (ruleOf i s) := by
  cases i with
  | rdOpen | rdHasnext | rdEntry | rdPull | rdPut | rdFinish | wrOpen | wrBegin | wrPush | wrEnd =>
    exact absurd hl (by decide)
  | coreReset => exact absurd rfl hi
  | nop | subOpen | ciphInit => exact ensures_next rfl
  | prngSeed => exact ensures_next (State.setPrng_seq s _)
  | prngNext => rcases prngNextRule_cases s with ⟨_, h⟩ | ⟨_, h⟩ <;> rw [ruleOf, h] <;> exact ensures_next rfl
  | keyChecksum => rcases keyChecksumRule_cases s with ⟨_, h⟩ | ⟨_, h⟩ <;> rw [ruleOf, h] <;> exact ensures_next rfl
  | subRead => rcases subReadRule_cases s with ⟨_, h⟩ | ⟨_, _, b, h⟩ <;> rw [ruleOf, h] <;> exact ensures_next rfl
  | ciphDec =>
    rcases ciphDecRule_cases s with ⟨_, h⟩ | ⟨_, _, h⟩ | ⟨_, _, h⟩ <;> rw [ruleOf, h]
    · exact ensures_next rfl
    · exact ensures_next rfl
    · exact cipherResult_ensures fun _ _ _ _ => rfl
  | ciphEnc =>
    rcases ciphEncRule_cases s with ⟨_, h⟩ | ⟨_, _, h⟩ | ⟨_, _, h⟩ <;> rw [ruleOf, h]
    · exact ensures_next rfl
    · exact ensures_next rfl
    · exact cipherResult_ensures fun _ _ _ _ => rfl

/-- None of the commands that write `OUT` (R31) can run without a container. -/
theorem not_writes_of_legal_fault {i : Instr} (hl : legal i .fault = true) :
    i ∉ [.rdPut, .rdFinish, .wrBegin, .wrEnd] := by
  revert hl
  cases i <;> decide

/-- Settles O45: what is legal while a writer is pending, but for `WR_BEGIN`, is legal in every `SEQ` value; of the rest
`SEQ` and `OUT` are those of the refusal. -/
theorem pendingWriterEmitsNothing : Obligations.PendingWriterEmitsNothing := by
  intro i s t hq hrun hi
  by_cases hl : legal i .fault = true
  · refine ⟨(exec_ports i s t hrun).out_eq (not_writes_of_legal_fault hl), fun hreset => ?_⟩
    exact exec_ensures (P := fun t => t.seq = .wPending) i s hq
      (fun _ u hu => (ruleOf_seq_of_legal_fault hl hreset _ u hu).trans hq) t hrun
  · have hrefused : ¬legal i s.seq = true := by
      rw [hq, legal_wPending_iff]
      exact not_or.2 ⟨hl, hi⟩
    cases (exec_of_illegal hrefused).symm.trans hrun
    exact ⟨rfl, fun _ => hq⟩

end Sys2Proof.Proofs

namespace Sys2Proof.Proofs

open Sys2Proof.Machine

/-- Settles O6: `NOP` is legal in every `SEQ` value and its rule is empty (R97), so what is left is dispatch's cleared
error (R42). -/
theorem nopOnlyClearsTheError : Obligations.NopOnlyClearsTheError := by
  intro s
  have hlegal : legal .nop s.seq = true := rfl
  calc exec .nop s = ruleOf .nop (s.setErr none) := exec_of_legal hlegal
    _ = .next s.accepted := rfl

end Sys2Proof.Proofs

namespace Sys2Proof.Proofs

open Sys2Proof.Machine

/-! ### What an error leaves

Each error belongs to one of three classes (R101 to R103), and its class tells what the command that raised it has done
before the raise. -/

/-- What the rule of `i`, run from `s`, leaves when it ends with an error: a command-level one nothing but the raise
(R101), an entry-level one a finished entry without a commit (R102), a stream-level one `FAULT` and no output (R103). -/
def ErrorLeft (i : Instr) (s t : State) : Error → Prop
  | .illegalCommand => t = raise .illegalCommand s
  | .unsupportedOperation => t = raise .unsupportedOperation s
  | .unseeded => t = raise .unseeded s
  | .sizeMismatch => i = .rdFinish ∧ t = raise .sizeMismatch (entryFinished s)
  | .entryChecksum => i = .rdFinish ∧ t = raise .entryChecksum (entryFinished s)
  | .keyChecksum => t.seq = .fault ∧ t.ports.out = s.ports.out
  | .truncated => t.seq = .fault ∧ t.ports.out = s.ports.out
  | .sizeOverflow => t.seq = .fault ∧ t.ports.out = s.ports.out

/-- If `t` ends with an error, it is what that error's class leaves. -/
def LeavesByClass (i : Instr) (s t : State) : Prop := ∀ e, t.regs.err = some e → ErrorLeft i s t e

theorem leavesByClass_of_success {i : Instr} {s t : State} (ht : t.regs.err = none) : LeavesByClass i s t :=
  fun _ he => nomatch ht.symm.trans he

theorem leavesByClass_raise {i : Instr} {s u : State} {e : Error} (h : ErrorLeft i s (raise e u) e) :
    LeavesByClass i s (raise e u) := by
  rintro _ ⟨⟩
  exact h

/-- Over an unseeded PRNG a unit command that draws ends with a raise alone: `UNSEEDED`, or the direction error that
stands before it (R104 item 4). -/
theorem exists_raise_of_unseeded {i : Instr} {s : State} (hi : i ∈ [.prngNext, .keyChecksum, .ciphDec, .ciphEnc])
    (hv : s.prng.valid = false) : ∃ e, ruleOf i s = .next (raise e s) := by
  simp only [List.mem_cons, List.not_mem_nil, or_false] at hi
  rcases hi with rfl | rfl | rfl | rfl
  · exact ⟨_, prngNextRule_unseeded hv⟩
  · exact ⟨_, keyChecksumRule_unseeded hv⟩
  · exact ⟨_, ciphDecRule_unseeded hv⟩
  · exact ⟨_, ciphEncRule_unseeded hv⟩

section
variable {s : State} (hs : s.regs.err = none)
include hs

/-- Every error of `RD_OPEN` is stream-level, and `RD_OPEN` only reads `IN` (R79). -/
theorem rdOpenRule_leavesByClass : Ensures (LeavesByClass .rdOpen s) (rdOpenRule s) := by
  rcases rdOpenRule_cases s with ⟨_, h⟩ | ⟨_, _, h⟩ | ⟨_, _, h⟩ <;> rw [h]
  · exact ensures_next (leavesByClass_raise ⟨rfl, rfl⟩)
  · exact ensures_next (leavesByClass_of_success hs)
  · exact ensures_next (leavesByClass_raise ⟨rfl, (congrArg Ports.out (headerTaken_ports s) :)⟩)

theorem rdEntryRule_leavesByClass : Ensures (LeavesByClass .rdEntry s) (rdEntryRule s) := by
  rcases rdEntryRule_cases s with ⟨_, h⟩ | ⟨_, h⟩ <;> rw [h]
  · exact ensures_next (leavesByClass_raise ⟨rfl, rfl⟩)
  · exact ensures_next (leavesByClass_of_success hs)

/-- Both errors of `RD_FINISH` are entry-level, raised over the same finished entry (R84). -/
theorem rdFinishRule_leavesByClass : Ensures (LeavesByClass .rdFinish s) (rdFinishRule s) := by
  rcases rdFinishRule_cases s with ⟨e, he, h⟩ | ⟨_, h⟩ <;> rw [h]
  · refine ensures_next (leavesByClass_raise ?_)
    cases finishError_ruleError he with
    | lengthMismatch | entryMismatch => exact ⟨rfl, rfl⟩
    | noSeed hi | shortHeader hi => exact absurd hi (by decide)
  · exact ensures_next (leavesByClass_of_success hs)

theorem wrEndRule_leavesByClass : Ensures (LeavesByClass .wrEnd s) (wrEndRule s) := by
  rcases wrEndRule_cases s with ⟨_, h⟩ | ⟨_, h⟩ <;> rw [h]
  · exact ensures_next (leavesByClass_raise ⟨rfl, rfl⟩)
  · exact ensures_next (leavesByClass_of_success hs)

/-- The guards of the unit commands stand before every write, so a refused one leaves the state as it was (R101). -/
theorem ruleOf_leavesByClass (i : Instr) : Ensures (LeavesByClass i s) (ruleOf i s) := by
  intro t hrun e he
  have hend : RuleEnd i s (.next t) := hrun ▸ ruleOf_end i hs
  cases hend.ruleError he with
  | decDirection hd =>
    cases hrun.symm.trans (if_pos hd)
    rfl
  | encDirection hd =>
    cases hrun.symm.trans (if_pos hd)
    rfl
  | noSeed hi hv =>
    obtain ⟨e', hraise⟩ := exists_raise_of_unseeded hi hv
    cases hrun.symm.trans hraise
    cases he
    rfl
  | shortHeader hi =>
    obtain rfl | rfl : i = .rdOpen ∨ i = .rdEntry := by simpa using hi
    · exact rdOpenRule_leavesByClass hs t hrun _ he
    · exact rdEntryRule_leavesByClass hs t hrun _ he
  | keyMismatch => exact rdOpenRule_leavesByClass hs t hrun _ he
  | lengthMismatch | entryMismatch => exact rdFinishRule_leavesByClass hs t hrun _ he
  | oversize => exact wrEndRule_leavesByClass hs t hrun _ he

end

/-- A command refused by dispatch leaves what a command-level error leaves, so the classes hold of every command. -/
theorem exec_leavesByClass (i : Instr) (s : State) : Ensures (LeavesByClass i (s.setErr none)) (exec i s) :=
  exec_ensures i s (leavesByClass_raise rfl) fun _ => ruleOf_leavesByClass rfl i

/-! ### The three classes -/

/-- Settles O32: a command-level error is the raise over the cleared error, be it of the word or of the command. -/
theorem commandLevelErrorChangesNothingElse : Obligations.CommandLevelErrorChangesNothingElse := by
  intro s t w rest hstep herr
  rw [step_writeCmd rfl] at hstep
  by_cases hw : ∃ i, w = encode i
  · obtain ⟨i, rfl⟩ := hw
    rw [runWord_of_decode (decode_encode i)] at hstep
    have hleft := exec_leavesByClass i _ t hstep
    simp only [List.mem_cons, List.not_mem_nil, or_false] at herr
    rcases herr with h | h | h <;> rw [hleft _ h] <;> rfl
  · rw [runWord_of_not_encoded (not_exists.1 hw)] at hstep
    cases hstep
    rfl

/-- Settles O33: an entry-level error is raised over the finished entry of `RD_FINISH`. -/
theorem entryLevelErrorEndsTheEntryOnly : Obligations.EntryLevelErrorEndsTheEntryOnly := by
  intro i s t hrun herr
  have hleft := exec_leavesByClass i s t hrun
  simp only [List.mem_cons, List.not_mem_nil, or_false] at herr
  rcases herr with h | h <;> obtain ⟨rfl, rfl⟩ := hleft _ h <;> exact ⟨rfl, rfl, rfl, rfl, rfl, rfl, rfl⟩

/-- Settles O34: the class gives `FAULT` and the kept output; that `SCRATCH` is empty in `FAULT` is the invariant, which
the command keeps. -/
theorem streamLevelErrorFaultsTheContainer : Obligations.StreamLevelErrorFaultsTheContainer := by
  intro i s t hrun herr
  have hleft := exec_leavesByClass i s t hrun
  obtain ⟨hseq, hout⟩ : t.seq = .fault ∧ t.ports.out = s.ports.out := by
    simp only [List.mem_cons, List.not_mem_nil, or_false] at herr
    rcases herr with h | h | h <;> exact hleft _ h
  have hscratch (hi : s.Inv) : t.scratch = [] :=
    (inv_exec hi i t hrun).scratchIdle (by simp [hseq]) (by simp [hseq])
  exact ⟨hseq, hout, hscratch⟩

/-- A stream-level error from a state with the invariant: `RD_OPEN` on an empty `IN`, right after reset. -/
theorem rdOpen_after_reset_truncated :
    State.reset.Inv ∧ ∃ t, exec .rdOpen State.reset = .next t ∧ t.regs.err = some .truncated :=
  ⟨resetMeetsTheInvariant, _, rfl, rfl⟩

/-! ### In `FAULT` -/

/-- Settles O35: what `FAULT` admits needs no container and keeps `SEQ`, but for `CORE_RESET`; the rest is refused. -/
theorem onlyCoreResetLeavesFault : Obligations.OnlyCoreResetLeavesFault := by
  intro i s t hq hrun
  refine ⟨fun hi => ?_, fun hi => ?_, fun hi => ?_⟩
  · exact exec_ensures (P := fun t => t.seq = .fault) i s hq
      (fun hl u hu => (ruleOf_seq_of_legal_fault (hq ▸ hl) hi _ u hu).trans hq) t hrun
  · subst hi
    cases (exec_of_legal (i := .coreReset) (s := s) rfl).symm.trans hrun
    rfl
  · have hrefused : ¬legal i s.seq = true := by
      rw [hq]
      revert hi
      cases i <;> decide
    cases (exec_of_illegal hrefused).symm.trans hrun
    rfl

/-! ### Which command raises which error -/

/-- An error comes from dispatch, which refused the command, or from the rule under its guard (R42, R99). -/
theorem exec_error_origin {i : Instr} {s t : State} {e : Error} (hrun : exec i s = .next t)
    (he : t.regs.err = some e) :
    e = .unsupportedOperation ∧ legal i s.seq = false ∨ RuleError (s.setErr none) i e := by
  cases hl : legal i s.seq with
  | false =>
    cases (exec_of_illegal (Bool.eq_false_iff.1 hl)).symm.trans hrun
    cases he
    exact .inl ⟨rfl, rfl⟩
  | true =>
    rw [exec_of_legal hl] at hrun
    have hend : RuleEnd i (s.setErr none) (.next t) := hrun ▸ ruleOf_end i rfl
    exact .inr (hend.ruleError he)

/-- Settles O31: a word that encodes nothing is illegal; of a command's errors, dispatch raises one and `RuleError`
lists the others with their guards. -/
theorem errorsComeFromTheirCommands : Obligations.ErrorsComeFromTheirCommands := by
  refine ⟨rfl, rfl, fun s t w rest hstep => ?_⟩
  rw [step_writeCmd rfl] at hstep
  refine ⟨fun hnone => ?_, ?_⟩
  · rw [runWord_of_not_encoded hnone] at hstep
    cases hstep
    rfl
  · rintro i e rfl he
    rw [runWord_of_decode (decode_encode i)] at hstep
    rcases exec_error_origin hstep he with ⟨rfl, hl⟩ | hraised
    · exact .inl ⟨rfl, .inl hl⟩
    · cases hraised with
      | decDirection hd => exact .inl ⟨rfl, .inr (.inl ⟨rfl, (BitVec.eq_zero_or_eq_one _).resolve_left hd⟩)⟩
      | encDirection hd => exact .inl ⟨rfl, .inr (.inr ⟨rfl, (BitVec.eq_zero_or_eq_one _).resolve_right hd⟩)⟩
      | keyMismatch hc => exact .inr (.inl ⟨rfl, rfl, hc⟩)
      | entryMismatch hc => exact .inr (.inr (.inl ⟨rfl, rfl, hc⟩))
      | lengthMismatch hc => exact .inr (.inr (.inr (.inl ⟨rfl, rfl, hc⟩)))
      | oversize => exact .inr (.inr (.inr (.inr (.inl ⟨rfl, rfl⟩))))
      | shortHeader hi => exact .inr (.inr (.inr (.inr (.inr (.inl ⟨rfl, hi⟩)))))
      | noSeed hi hv => exact .inr (.inr (.inr (.inr (.inr (.inr ⟨rfl, hi, hv⟩)))))

/-! ### Between commands -/

/-- Settles O30: a step takes effect only through a waiting event (R105, R112). -/
theorem nothingChangesBetweenCommands : Obligations.NothingChangesBetweenCommands := fun _ => step_nil

end Sys2Proof.Proofs
